-- ==== Sys2Proof/Word.lean ====
section
/-! DEFINITION. The word (spec/00_scope.md R5, R6): a signed 64-bit integer in two's complement, and the narrowing
`wrap64` of a mathematical integer to a word. -/

namespace Sys2Proof

/-- A word (R6, R12): the atomic unit of memory and of the channels. As a number it is `w.toInt`. -/
abbrev Word := BitVec 64

/-- `wrap64` of R6: the unique word congruent to `x` modulo 2^64. -/
def wrap64 (x : Int) : Word := BitVec.ofInt 64 x

end Sys2Proof
end

