-- ==== Sys2Proof/Config.lean ====
section
/-! DEFINITION. What is fixed for one core: the names of the ten opcodes and the three addressing modes
(spec/30_encoding.md R64, R65), the parameters of spec/00_scope.md R5, and the one free value (the growth of the
backing array, spec/93_implementation_defined.md U1). -/

namespace Sys2Proof

/-- The three addressing modes of R65, tags 0, 1, 2 in this order. -/
inductive Mode where
  | position
  | immediate
  | relative
  deriving DecidableEq, Repr

/-- The ten opcodes of R64. -/
inductive Opcode where
  | add | mul | input | output | jnz | jz | lt | eq | setRb | halt
  deriving DecidableEq, Repr

/-- A parameter slot `k` (1 to 3), or 0 where no slot is concerned: the range of ESLOT (R27). -/
abbrev Slot := Fin 4

/-- The parameters that R5 marks OPEN: arguments of the model. They stand in State, where no step changes them
(DESIGN CHOICE, log 4), so a statement over all states holds for every choice of them. -/
structure Params where
  /-- `MEM_CAP` (R46): `none` is unbounded; under `some c` a store at an address `c` or above is stuck. -/
  memCap : Option Nat
  /-- `IO_ERRORS` (R119): the host may answer a transaction with an error. -/
  ioErrors : Bool
  /-- `INPUT_FAULT_BEFORE_REQUEST` (R111): INPUT checks its destination before it makes the request. -/
  inputFaultBeforeRequest : Bool
  /-- `STRICT_UPPER_DIGITS` (R68): a non-zero digit of weight 10^5 or above makes an instruction word illegal. -/
  strictUpperDigits : Bool
  deriving DecidableEq, Repr

/-- The values that R5 gives the parameters. -/
def Params.default : Params :=
  { memCap := none, ioErrors := false, inputFaultBeforeRequest := true, strictUpperDigits := false }

/-- The addresses are 0 to 2^63 - 1 (R5, R28): this is the first number that is none. -/
def Config.addrLimit : Nat := 9223372036854775808

/-- FREE VALUE (U1, R45; log 3): how far beyond the least length `addr + 1` the `n`-th growing store extends the
backing array. It has no body: nothing can be proved of its value. -/
opaque Config.growthSlack : Nat → Nat

end Sys2Proof
end

