-- ==== Sys2Proof/Syntax.lean ====
section
/-! DEFINITION. The instructions: one constructor per row of spec/opcode_table.json. -/

namespace Sys2Proof

/-- What the decoder yields (spec/30_encoding.md R63): an opcode and ALWAYS three addressing modes, those of unused
slots included (R67), 270 results in all (R71). The parameter words are no part of it: the decoder reads the
instruction word only, and the executor fetches parameter `k` from address PC + k (spec/40_operands.md R82). -/
inductive Instr where
  | add    (m1 m2 m3 : Mode)
  | mul    (m1 m2 m3 : Mode)
  | input  (m1 m2 m3 : Mode)
  | output (m1 m2 m3 : Mode)
  | jnz    (m1 m2 m3 : Mode)
  | jz     (m1 m2 m3 : Mode)
  | lt     (m1 m2 m3 : Mode)
  | eq     (m1 m2 m3 : Mode)
  | setRb  (m1 m2 m3 : Mode)
  | halt   (m1 m2 m3 : Mode)
  deriving DecidableEq, Repr

end Sys2Proof
end

