-- ==== Sys2Proof/WellFormed.lean ====
section
/-! DEFINITION. The checks of spec/30_encoding.md that are not in the types: which mode a write parameter may have
(R65, last column of its table), and which words are legal instruction words (R69). Both are written without the
decoder, so that the decoder can be held against them. -/

namespace Sys2Proof

/-- The mode of the write parameter, for the instructions that have one (R62, R64: slot 3 of format RRW, slot 1 of
format W). -/
def Instr.writeMode : Instr → Option Mode
  | .add _ _ m3 => some m3
  | .mul _ _ m3 => some m3
  | .lt _ _ m3 => some m3
  | .eq _ _ m3 => some m3
  | .input m1 _ _ => some m1
  | .output _ _ _ => none
  | .jnz _ _ _ => none
  | .jz _ _ _ => none
  | .setRb _ _ _ => none
  | .halt _ _ _ => none

/-- An instruction whose write parameter is not IMMEDIATE (R65, R70). An instruction that fails this check still
decodes, encodes and runs: its run is the fatal stop ImmediateWrite (spec/40_operands.md R85). -/
def Instr.wellFormed (i : Instr) : Bool :=
  i.writeMode != some .immediate

/-- The decimal digit of weight 10^j of an instruction word read as a number (R8). -/
def wordDigit (j : Nat) (w : Word) : Int := w.toInt / 10 ^ j % 10

/-- R69 (a): the word is not negative. -/
def wordSignLegal (w : Word) : Bool := decide (0 ≤ w.toInt)

/-- R69 (b): the two low digits are one of the ten codes of R64. -/
def wordOpcodeLegal (w : Word) : Bool :=
  decide (w.toInt % 100 ∈ [1, 2, 3, 4, 5, 6, 7, 8, 9, 99])

/-- R69 (c) for slot `k`: the mode digit, of weight 10^(k+1), is 0, 1 or 2. -/
def wordModeLegal (k : Nat) (w : Word) : Bool := decide (wordDigit (k + 1) w ≤ 2)

/-- R68: under `STRICT_UPPER_DIGITS` there is no non-zero digit of weight 10^5 or above. -/
def wordUpperLegal (strict : Bool) (w : Word) : Bool := !strict || decide (w.toInt / 100000 = 0)

/-- A legal instruction word (R68, R69). -/
def legalWord (strict : Bool) (w : Word) : Bool :=
  wordSignLegal w && wordUpperLegal strict w && wordOpcodeLegal w
    && wordModeLegal 1 w && wordModeLegal 2 w && wordModeLegal 3 w

end Sys2Proof
end

