-- ==== Sys2Proof/Decode.lean ====
section
/-! DEFINITION. The decoder (spec/30_encoding.md R61 to R71), total on every word, rejecting by name; after it the
encoder, written from the same tables. -/

namespace Sys2Proof

/-- The code of an opcode (R64). -/
def Opcode.code : Opcode → Nat
  | .add => 1
  | .mul => 2
  | .input => 3
  | .output => 4
  | .jnz => 5
  | .jz => 6
  | .lt => 7
  | .eq => 8
  | .setRb => 9
  | .halt => 99

/-- The opcode of a code (R64): every other value is an unknown opcode. -/
def Opcode.ofCode : Nat → Option Opcode
  | 1 => some .add
  | 2 => some .mul
  | 3 => some .input
  | 4 => some .output
  | 5 => some .jnz
  | 6 => some .jz
  | 7 => some .lt
  | 8 => some .eq
  | 9 => some .setRb
  | 99 => some .halt
  | _ => none

/-- The size in words, fixed by the opcode alone (R60, R64). -/
def Opcode.size : Opcode → Nat
  | .add => 4
  | .mul => 4
  | .input => 2
  | .output => 2
  | .jnz => 3
  | .jz => 3
  | .lt => 4
  | .eq => 4
  | .setRb => 2
  | .halt => 1

/-- The tag of a mode (R65). -/
def Mode.digit : Mode → Nat
  | .position => 0
  | .immediate => 1
  | .relative => 2

/-- The mode of a tag (R65): 3 to 9 are unknown tags. -/
def Mode.ofDigit : Nat → Option Mode
  | 0 => some .position
  | 1 => some .immediate
  | 2 => some .relative
  | _ => none

/-- The instruction of an opcode and three modes. -/
def Opcode.instr (op : Opcode) (m1 m2 m3 : Mode) : Instr :=
  match op with
  | .add => .add m1 m2 m3
  | .mul => .mul m1 m2 m3
  | .input => .input m1 m2 m3
  | .output => .output m1 m2 m3
  | .jnz => .jnz m1 m2 m3
  | .jz => .jz m1 m2 m3
  | .lt => .lt m1 m2 m3
  | .eq => .eq m1 m2 m3
  | .setRb => .setRb m1 m2 m3
  | .halt => .halt m1 m2 m3

/-- The opcode of an instruction. -/
def Instr.opcode : Instr → Opcode
  | .add _ _ _ => .add
  | .mul _ _ _ => .mul
  | .input _ _ _ => .input
  | .output _ _ _ => .output
  | .jnz _ _ _ => .jnz
  | .jz _ _ _ => .jz
  | .lt _ _ _ => .lt
  | .eq _ _ _ => .eq
  | .setRb _ _ _ => .setRb
  | .halt _ _ _ => .halt

/-- The three modes of an instruction, slots 1, 2, 3. -/
def Instr.modes : Instr → Mode × Mode × Mode
  | .add m1 m2 m3 => (m1, m2, m3)
  | .mul m1 m2 m3 => (m1, m2, m3)
  | .input m1 m2 m3 => (m1, m2, m3)
  | .output m1 m2 m3 => (m1, m2, m3)
  | .jnz m1 m2 m3 => (m1, m2, m3)
  | .jz m1 m2 m3 => (m1, m2, m3)
  | .lt m1 m2 m3 => (m1, m2, m3)
  | .eq m1 m2 m3 => (m1, m2, m3)
  | .setRb m1 m2 m3 => (m1, m2, m3)
  | .halt m1 m2 m3 => (m1, m2, m3)

/-- Why the decoder rejects a word (R63). -/
inductive DecodeError where
  /-- `DecodeError(UnknownOpcode)`: negative, upper digits under STRICT_UPPER_DIGITS, or no opcode. -/
  | unknownOpcode
  /-- `DecodeError(UnknownMode)`: the lowest slot whose digit is 3 to 9. -/
  | unknownMode (slot : Slot)
  deriving DecidableEq, Repr

/-- The mode digit of slot `slot` read as a mode, or the rejection that names the slot (R63). -/
def decodeMode (slot : Slot) (d : Nat) : Except DecodeError Mode :=
  match Mode.ofDigit d with
  | some m => .ok m
  | none => .error (.unknownMode slot)

/-- `decode` of R63, with the parameter STRICT_UPPER_DIGITS of R68 as its first argument. The checks stand in the
order of R63 and R68: sign, upper digits, opcode, then slots 1, 2, 3. -/
def decode (strict : Bool) (w : Word) : Except DecodeError Instr :=
  if w.toInt < 0 then .error .unknownOpcode
  else if strict && w.toNat / 100000 != 0 then .error .unknownOpcode
  else
    match Opcode.ofCode (w.toNat % 100) with
    | none => .error .unknownOpcode
    | some op => do
      let m1 ← decodeMode 1 (w.toNat / 100 % 10)
      let m2 ← decodeMode 2 (w.toNat / 1000 % 10)
      let m3 ← decodeMode 3 (w.toNat / 10000 % 10)
      return op.instr m1 m2 m3

/-- The number of the canonical instruction word (R71): `op + 100*d1 + 1000*d2 + 10000*d3`. -/
def encodeNat (i : Instr) : Nat :=
  i.opcode.code + 100 * i.modes.1.digit + 1000 * i.modes.2.1.digit + 10000 * i.modes.2.2.digit

/-- The encoder: the canonical instruction word (R71). -/
def encode (i : Instr) : Word := BitVec.ofNat 64 (encodeNat i)

/-- The words of an instruction with its parameter words (R60): the instruction word, then as many parameter words as
the opcode's size leaves room for. -/
def assemble (i : Instr) (params : List Word) : List Word :=
  encode i :: params.take (i.opcode.size - 1)

/-- The four words of the longest instruction, numbered as spec/opcode_table.json numbers bits: the first word is
bits 63 to 0, each later word the next 64. Bits at `nbits` and above are 0. -/
def tableWords (nbits w : Nat) : List Word :=
  [0, 64, 128, 192].map fun shift => BitVec.ofNat 64 (w % 2 ^ nbits / 2 ^ shift)

/-- The instruction the decoder reads from a table word: the decoder reads the first of the instruction's words (R60),
with the parameter values of R5 (log 24). -/
def decodeTableWord (nbits w : Nat) : Option Instr :=
  match decode Params.default.strictUpperDigits ((tableWords nbits w).headD 0) with
  | .ok i => some i
  | .error _ => none

end Sys2Proof
end

