-- ==== Sys2Proof/Machine/State.lean ====
section
/-! DEFINITION. The state of one core (spec/10_state.md), the reasons a step can stop, and the state after reset. -/

namespace Sys2Proof.Machine

open Sys2Proof

/-- Why a step has no next state. -/
inductive Fault where
  /-- A store (by ADD, MUL, LT, EQ or the completion of INPUT) at or above a finite `MEM_CAP`: R46 treats it "as stuck
  (no step)". Safe: the model stops where some memory unit would go on. Never raised under the default, unbounded
  `MEM_CAP`. -/
  | memCapExceeded
  deriving DecidableEq, Repr

/-- Why an instruction has no meaning. -/
inductive Refusal where
  /-- The instruction has no meaning yet. Raised by no arm of `exec`. Safe. -/
  | notModelled (mnemonic : String)
  deriving DecidableEq, Repr

/-- The run-state register RUN (R25). -/
inductive RunState where
  | ready
  | awaitingInput
  | halted
  | faulted
  deriving DecidableEq, Repr

/-- The causes of a fatal error (R150, R151). -/
inductive Cause where
  | unknownOpcode
  | unknownMode
  | negativeAddress
  | immediateWrite
  | ioError
  deriving DecidableEq, Repr

/-- A fatal error as it is raised (R9, `raise E(cause, info)`): its cause, and what EINFO and ESLOT record (R152). -/
structure FatalError where
  cause : Cause
  info : Word
  slot : Slot
  deriving DecidableEq, Repr

/-- Memory (R28): the words that differ from 0, with their addresses in strictly rising order. A cell is an address
and a whole word, because no smaller unit exists (R33, R49; log 1). -/
abbrev Memory := List (Nat × Word)

/-- What the host does on the input channel in one step in which the core waits (R113, R191). -/
inductive InAnswer where
  /-- `in_valid` with this word. -/
  | word (v : Word)
  /-- `in_err`: an error answer, only with IO_ERRORS (R119). -/
  | error
  /-- No answer in this step (U6). -/
  | silent
  deriving DecidableEq, Repr

/-- What the consumer answers to one output transaction (R118, R119). -/
inductive OutAnswer where
  | taken
  /-- `out_err`, only with IO_ERRORS. -/
  | error
  deriving DecidableEq, Repr

/-- An event on the channels (R120). -/
inductive IoEvent where
  /-- The core asserted an input request (R113). -/
  | request
  /-- The core presented this word (R118). -/
  | out (v : Word)
  deriving DecidableEq, Repr

/-- The state of one core, and what the run takes as arguments or records (R34). INVENTORY.md lists each field with
its rule and reset value. -/
structure State where
  /-- PC (R21). -/
  pc : Word
  /-- RB (R24). -/
  rb : Word
  /-- RUN (R25). -/
  run : RunState
  /-- ERR (R26). -/
  err : BitVec 3
  /-- EINFO (R27). Outside FAULTED its value is the model's choice (log 2, log 26). -/
  einfo : Word
  /-- ESLOT (R27). Outside FAULTED its value is the model's choice (log 2, log 26). -/
  eslot : Slot
  /-- DST (R30). Outside AWAITING_INPUT its value is the model's choice (log 2, log 26). -/
  dst : Word
  /-- Mem (R28). -/
  mem : Memory
  /-- EXT (R29), hidden: read by nothing but its own growth. -/
  ext : Nat
  /-- The model's own: how many stores have grown the backing array, the index of the next free growth (log 3). -/
  growths : Nat
  /-- The model's own: the OPEN parameters of R5 (log 4). -/
  params : Params
  /-- The model's own: the level of the host's `run` port (R191; log 8). -/
  runEnable : Bool
  /-- The model's own: the host's answers in the coming waiting steps; none listed is silence (R34; log 5). -/
  inAnswers : List InAnswer
  /-- The model's own: the answers to the coming output transactions; none listed is taken (R34; log 6). -/
  outAnswers : List OutAnswer
  /-- The model's own: the channel events so far, oldest first (R34, R120; log 7). -/
  io : List IoEvent
  deriving DecidableEq, Repr

/-- The state after reset with the empty image (R35, R180, R183). DST, EINFO and ESLOT have no reset value in the spec:
they are 0 here (DESIGN CHOICE, log 2). -/
def State.reset : State :=
  { pc := 0
    rb := 0
    run := .ready
    err := 0
    einfo := 0
    eslot := 0
    dst := 0
    mem := []
    ext := 0
    growths := 0
    params := Params.default
    runEnable := true
    inAnswers := []
    outAnswers := []
    io := [] }

end Sys2Proof.Machine
end

