-- ==== Sys2Proof/Machine/Ops.lean ====
section
/-! DEFINITION. The shared operations: memory (spec/20_memory.md), instruction fetch (spec/40_operands.md R81), the
named updates of the state, and TAKING A FATAL ERROR (spec/60_exceptions.md R154). There is no return from it: FAULTED
is left by reset only (R156), see Machine/HostPort.lean. -/

namespace Sys2Proof.Machine

open Sys2Proof

/-! ### Memory content (R28) -/

/-- What an address reads as that is not listed: 0 (R28, "zeros beyond the current extent"). -/
def Memory.unlisted : Word := 0

/-- `Mem[a]` (R28). -/
def Memory.read : Memory → Nat → Word
  | [], _ => Memory.unlisted
  | (k, v) :: rest, a => if k = a then v else Memory.read rest a

/-- A cell for `v` at `a`, unless it would read as an unlisted address does. -/
def Memory.cell (a : Nat) (v : Word) : Memory :=
  if v = Memory.unlisted then [] else [(a, v)]

/-- `Mem[a] <- v` (R42), in the canonical form. -/
def Memory.write : Memory → Nat → Word → Memory
  | [], a, v => Memory.cell a v
  | (k, u) :: rest, a, v =>
    if a < k then Memory.cell a v ++ (k, u) :: rest
    else if a = k then Memory.cell a v ++ rest
    else (k, u) :: Memory.write rest a v

/-- The canonical form: addresses strictly rising, each one an address of R28, no listed word equal to what an
unlisted address reads as. -/
abbrev Memory.wf (m : Memory) : Prop :=
  m.Pairwise (fun c d => c.1 < d.1) ∧ ∀ c ∈ m, c.2 ≠ Memory.unlisted ∧ c.1 < Config.addrLimit

/-- The words of an image from address `base` on (R35: "Mem[a] = P[a]"). -/
def Memory.ofImage (base : Nat) : List Word → Memory
  | [] => []
  | w :: rest =>
    if base < Config.addrLimit then Memory.cell base w ++ Memory.ofImage (base + 1) rest else []

/-! ### Named updates -/

def State.setPc (s : State) (v : Word) : State := { s with pc := v }

def State.setRb (s : State) (v : Word) : State := { s with rb := v }

def State.setRun (s : State) (r : RunState) : State := { s with run := r }

def State.setDst (s : State) (v : Word) : State := { s with dst := v }

/-- The host's coming answers, replaced (log 5). -/
def State.setInAnswers (s : State) (l : List InAnswer) : State := { s with inAnswers := l }

/-- Append a channel event to the record (R120). -/
def State.record (s : State) (e : IoEvent) : State := { s with io := s.io ++ [e] }

/-- The sequential update `PC <- wrap64(PC + size)` (R22, R23). -/
def State.advance (s : State) (size : Nat) : State := s.setPc (wrap64 (s.pc.toInt + size))

/-- A successful store at address `a` (R42): one word changes, and a store at or beyond EXT raises EXT to `a + 1` or
more, by the free growth (R45, log 3). -/
def State.storeWord (s : State) (a : Nat) (v : Word) : State :=
  { s with
    mem := s.mem.write a v
    ext := if a < s.ext then s.ext else a + 1 + Config.growthSlack s.growths
    growths := if a < s.ext then s.growths else s.growths + 1 }

/-! ### Taking a fatal error (R151, R154) -/

/-- The ERR code of a cause (R151). -/
def Cause.code : Cause → BitVec 3
  | .unknownOpcode => 1
  | .unknownMode => 2
  | .negativeAddress => 3
  | .immediateWrite => 4
  | .ioError => 5

/-- The fatal stop (R154), on the state from before the instruction: RUN, ERR, EINFO and ESLOT are written, nothing
else changes. -/
def State.fatalStop (s : State) (e : FatalError) : State :=
  { s with run := .faulted, err := e.cause.code, einfo := e.info, eslot := e.slot }

/-- `raise` (R9, R154): the fatal stop is the outcome of the step. -/
def raise (s : State) (e : FatalError) : Host.Outcome State Fault Refusal :=
  .next (s.fatalStop e)

/-- Why an action with a store does not complete: it raises, or it is stuck. -/
inductive Stop where
  | fatal (e : FatalError)
  | stuck (f : Fault)
  deriving DecidableEq, Repr

/-- The outcome of an action begun in `s` (R10): all its writes, or the fatal stop from `s`, or no step. -/
def settle (s : State) : Except Stop State → Host.Outcome State Fault Refusal
  | .ok t => .next t
  | .error (.fatal e) => raise s e
  | .error (.stuck f) => .fault f

/-! ### Load and store (R41, R42, R46) -/

/-- The error of a negative address (R41, R42), with the slot it is reported for (R152). -/
def negativeAddress (addr : Word) (slot : Slot) : FatalError :=
  { cause := .negativeAddress, info := addr, slot := slot }

/-- `MemRead(addr, 1)` (R41). It changes nothing (R44). -/
def load (m : Memory) (slot : Slot) (addr : Word) : Except FatalError Word :=
  if addr.toInt < 0 then .error (negativeAddress addr slot) else .ok (m.read addr.toNat)

/-- Whether `MEM_CAP` leaves room for a store at address `a` (R46). -/
def Params.capAllows (p : Params) (a : Nat) : Bool :=
  match p.memCap with
  | none => true
  | some cap => decide (a < cap)

/-- `MemWrite(addr, 1, v)` (R42, R46). -/
def memWrite (s : State) (slot : Slot) (addr v : Word) : Except Stop State :=
  if addr.toInt < 0 then .error (.fatal (negativeAddress addr slot))
  else if Params.capAllows s.params addr.toNat then .ok (s.storeWord addr.toNat v)
  else .error (.stuck .memCapExceeded)

/-! ### Fetch and decode (R80, R81) -/

/-- What a rejection by the decoder records (R152): EINFO is the instruction word. -/
def decodeFatal (w : Word) : DecodeError → FatalError
  | .unknownOpcode => { cause := .unknownOpcode, info := w, slot := 0 }
  | .unknownMode slot => { cause := .unknownMode, info := w, slot := slot }

/-- The instruction at PC: steps (1) and (2) of R80. -/
def fetchInstr (s : State) : Except FatalError Instr := do
  let w ← load s.mem 0 s.pc
  match decode s.params.strictUpperDigits w with
  | .ok i => return i
  | .error e => throw (decodeFatal w e)

end Sys2Proof.Machine
end

