-- ==== Sys2Proof/Machine/Operands.lean ====
section
/-! DEFINITION. Parameters under the three addressing modes (spec/40_operands.md R82 to R87), and the operands of each
format in slot order (R86). Evaluation changes no state. -/

namespace Sys2Proof.Machine

open Sys2Proof

/-- The raw parameter word `p_k = MemRead(wrap64(PC + k), 1)` (R82). -/
def paramWord (s : State) (k : Slot) : Except FatalError Word :=
  load s.mem k (wrap64 (s.pc.toInt + k.val))

/-- The effective address of RELATIVE: `wrap64(p + RB)` (R84, R87). -/
def relativeAddr (s : State) (p : Word) : Word := wrap64 (p.toInt + s.rb.toInt)

/-- `ReadOperand(k, m)` (R84). -/
def readOperand (s : State) (k : Slot) (m : Mode) : Except FatalError Word := do
  let p ← paramWord s k
  match m with
  | .position => load s.mem k p
  | .immediate => return p
  | .relative => load s.mem k (relativeAddr s p)

/-- The sign check of a destination (R85). -/
def checkDest (k : Slot) (ea : Word) : Except FatalError Word :=
  if ea.toInt < 0 then throw (negativeAddress ea k) else return ea

/-- `WriteAddress(k, m)` (R85). -/
def writeAddress (s : State) (k : Slot) (m : Mode) : Except FatalError Word := do
  let p ← paramWord s k
  match m with
  | .position => checkDest k p
  | .immediate => throw { cause := .immediateWrite, info := p, slot := k }
  | .relative => checkDest k (relativeAddr s p)

/-- The operands of format RR (R62): `a`, `b`, both evaluated whether or not they will be used (R86). -/
def operandsRR (s : State) (m1 m2 : Mode) : Except FatalError (Word × Word) := do
  let a ← readOperand s 1 m1
  let b ← readOperand s 2 m2
  return (a, b)

/-- The operands of format RRW (R62, R100): `a`, `b`, `dst`. -/
def operandsRRW (s : State) (m1 m2 m3 : Mode) : Except FatalError (Word × Word × Word) := do
  let a ← readOperand s 1 m1
  let b ← readOperand s 2 m2
  let dst ← writeAddress s 3 m3
  return (a, b, dst)

end Sys2Proof.Machine
end

