-- ==== Sys2Proof/Machine/Flags.lean ====
section
/-! DEFINITION. The machine has no flags and no condition codes (spec/10_state.md R31). What stands in their place: the
0 or 1 word that LT and EQ store (spec/41_arith_compare.md R103, R104), and the zero tests of the jumps
(spec/43_jumps.md R130, R131). -/

namespace Sys2Proof.Machine

open Sys2Proof

/-- The word 1 or 0 of a comparison. -/
def truthWord (c : Bool) : Word := if c then 1 else 0

/-- R103: 1 if `a < b` as signed integers, else 0. -/
def ltWord (a b : Word) : Word := truthWord (decide (a.toInt < b.toInt))

/-- R104: 1 if `a` and `b` are the same word, else 0. -/
def eqWord (a b : Word) : Word := truthWord (decide (a = b))

/-- The test of JNZ (R130). -/
def isNonZero (a : Word) : Bool := decide (a.toInt ≠ 0)

/-- The test of JZ (R131). -/
def isZero (a : Word) : Bool := decide (a.toInt = 0)

end Sys2Proof.Machine
end

