-- ==== Sys2Proof/Machine/Arith.lean ====
section
/-! DEFINITION. The arithmetic and comparison instructions (spec/41_arith_compare.md R100 to R105): ADD, MUL, LT, EQ. -/

namespace Sys2Proof.Machine

open Sys2Proof

/-- R101: the sum modulo 2^64. -/
def addWord (a b : Word) : Word := wrap64 (a.toInt + b.toInt)

/-- R102: the low 64 bits of the exact signed product. -/
def mulWord (a b : Word) : Word := wrap64 (a.toInt * b.toInt)

/-- The common shape of the RRW instructions (R100): evaluate `a`, `b`, `dst`, store `f a b` at `dst`, PC + 4. -/
def execRRW (f : Word → Word → Word) (m1 m2 m3 : Mode) (s : State) : Host.Outcome State Fault Refusal :=
  match operandsRRW s m1 m2 m3 with
  | .error e => raise s e
  | .ok (a, b, dst) => settle s ((memWrite s 3 dst (f a b)).map fun t => t.advance 4)

/-- ADD (R101). -/
def execAdd (m1 m2 m3 : Mode) (s : State) : Host.Outcome State Fault Refusal := execRRW addWord m1 m2 m3 s

/-- MUL (R102). -/
def execMul (m1 m2 m3 : Mode) (s : State) : Host.Outcome State Fault Refusal := execRRW mulWord m1 m2 m3 s

/-- LT (R103). -/
def execLt (m1 m2 m3 : Mode) (s : State) : Host.Outcome State Fault Refusal := execRRW ltWord m1 m2 m3 s

/-- EQ (R104). -/
def execEq (m1 m2 m3 : Mode) (s : State) : Host.Outcome State Fault Refusal := execRRW eqWord m1 m2 m3 s

end Sys2Proof.Machine
end

