-- ==== Sys2Proof/Machine/InputOutput.lean ====
section
/-! DEFINITION. INPUT and OUTPUT and the channel transactions (spec/42_io.md R110 to R122). INPUT is two steps: the
request (`execInput`, R111) and the completion (`completeInput`, R112), which the step function takes while
RUN = AWAITING_INPUT. -/

namespace Sys2Proof.Machine

open Sys2Proof

/-! ### INPUT -/

/-- `InputRequest()` and `RUN <- AWAITING_INPUT` (R111, R113). -/
def requestInput (s : State) : State := (s.record .request).setRun .awaitingInput

/-- INPUT, request step (R111). With INPUT_FAULT_BEFORE_REQUEST false it makes no check and evaluates no destination
(R112). -/
def execInput (m1 : Mode) (s : State) : Host.Outcome State Fault Refusal :=
  if s.params.inputFaultBeforeRequest then
    match writeAddress s 1 m1 with
    | .error e => raise s e
    | .ok dst => .next (requestInput (s.setDst dst))
  else .next (requestInput s)

/-- The store, PC + 2 and return to READY of the completion step (R112), the destination standing in DST. DST keeps that
address afterwards: R30 and U19 leave its value outside AWAITING_INPUT open (DESIGN CHOICE, log 26). -/
def storeInput (s : State) (v : Word) : Except Stop State :=
  (memWrite s 1 s.dst v).map fun t => (t.advance 2).setRun .ready

/-- The destination that the deferred variant evaluates at completion (R112, "begins with
`DST <- WriteAddress(1, m1)`"); `m1` is that of the INPUT word at PC, read again (R36 (b); log 11). -/
def deferredDest (s : State) : Except FatalError Word := do
  let i ← fetchInstr s
  writeAddress s 1 i.modes.1

/-- INPUT, completion step with the host's word `v` (R112), both variants. -/
def completeInput (s : State) (v : Word) : Host.Outcome State Fault Refusal :=
  if s.params.inputFaultBeforeRequest then settle s (storeInput s v)
  else
    match deferredDest s with
    | .error e => raise s e
    | .ok dst => settle s (storeInput (s.setDst dst) v)

/-- A channel error (R119, R152): EINFO and ESLOT are 0. -/
def ioFatal : FatalError := { cause := .ioError, info := 0, slot := 0 }

/-- What the host presents on the input channel, in any run state: an answer completes or fails the outstanding request
(R112, R119), and what is presented without a request is ignored and not queued (R116). An error signal exists only
with IO_ERRORS (R191; log 13). -/
def offerInput (s : State) (a : InAnswer) : Host.Outcome State Fault Refusal :=
  match s.run with
  | .awaitingInput =>
    match a with
    | .word v => completeInput s v
    | .error => if s.params.ioErrors then raise s ioFatal else .next s
    | .silent => .next s
  | .ready => .next s
  | .halted => .next s
  | .faulted => .next s

/-- One step while the core waits: the host's next answer, taken from the script; with none left the core goes on
waiting (R112, R164; log 5, log 9). -/
def awaitStep (s : State) : Host.Outcome State Fault Refusal :=
  match s.inAnswers with
  | [] => .next s
  | a :: rest => offerInput (s.setInAnswers rest) a

/-! ### OUTPUT -/

/-- The state once `OutputWord(v)` has presented `v` (R118): the word is recorded, and with IO_ERRORS the consumer's
answer to it is used up. -/
def presentWord (s : State) (v : Word) : State :=
  { s.record (.out v) with outAnswers := if s.params.ioErrors then s.outAnswers.tail else s.outAnswers }

/-- Whether the consumer answers the coming transaction with an error (R119). -/
def outputFails (s : State) : Bool := s.params.ioErrors && s.outAnswers.head? == some .error

/-- OUTPUT (R117, R119). A word whose transaction ends in an error was seen by the consumer. -/
def execOutput (m1 : Mode) (s : State) : Host.Outcome State Fault Refusal :=
  match readOperand s 1 m1 with
  | .error e => raise s e
  | .ok a =>
    if outputFails s then raise (presentWord s a) ioFatal else .next ((presentWord s a).advance 2)

end Sys2Proof.Machine
end

