-- ==== Sys2Proof/Machine/Jump.lean ====
section
/-! DEFINITION. The control transfers (spec/43_jumps.md R130 to R132): JNZ, JZ. -/

namespace Sys2Proof.Machine

open Sys2Proof

/-- A taken jump to `b` (R132): an absolute address, checked for its sign only. -/
def jumpTo (s : State) (b : Word) : Host.Outcome State Fault Refusal :=
  if b.toInt < 0 then raise s (negativeAddress b 2) else .next (s.setPc b)

/-- The common shape of the jumps: evaluate `a` and `b`, taken or not (R86), then jump where `test a` holds, else
PC + 3. -/
def execJump (test : Word → Bool) (m1 m2 : Mode) (s : State) : Host.Outcome State Fault Refusal :=
  match operandsRR s m1 m2 with
  | .error e => raise s e
  | .ok (a, b) => if test a then jumpTo s b else .next (s.advance 3)

/-- JNZ (R130). -/
def execJnz (m1 m2 : Mode) (s : State) : Host.Outcome State Fault Refusal := execJump isNonZero m1 m2 s

/-- JZ (R131). -/
def execJz (m1 m2 : Mode) (s : State) : Host.Outcome State Fault Refusal := execJump isZero m1 m2 s

end Sys2Proof.Machine
end

