-- ==== Sys2Proof/Machine/System.lean ====
section
/-! DEFINITION. The relative-base and halt instructions (spec/44_system.md R140, R141): SET_RB, HALT. -/

namespace Sys2Proof.Machine

open Sys2Proof

/-- SET_RB (R140): it adds to RB, modulo 2^64; its own operand is read with the old RB. -/
def execSetRb (m1 : Mode) (s : State) : Host.Outcome State Fault Refusal :=
  match readOperand s 1 m1 with
  | .error e => raise s e
  | .ok a => .next ((s.setRb (wrap64 (s.rb.toInt + a.toInt))).advance 2)

/-- HALT (R141): PC keeps the address of the HALT word. -/
def execHalt (s : State) : Host.Outcome State Fault Refusal := .next (s.setRun .halted)

end Sys2Proof.Machine
end

