-- ==== Sys2Proof/Machine/Dispatch.lean ====
section
/-! DEFINITION. The meaning of each instruction, one arm per constructor. -/

namespace Sys2Proof.Machine

open Sys2Proof

/-- Step (3) and (4) of spec/40_operands.md R80. The modes of unused slots have no effect (spec/30_encoding.md R67). -/
def exec (i : Instr) (s : State) : Host.Outcome State Fault Refusal :=
  match i with
  | .add m1 m2 m3 => Sys2Proof.Machine.execAdd m1 m2 m3 s
  | .mul m1 m2 m3 => Sys2Proof.Machine.execMul m1 m2 m3 s
  | .input m1 _ _ => Sys2Proof.Machine.execInput m1 s
  | .output m1 _ _ => Sys2Proof.Machine.execOutput m1 s
  | .jnz m1 m2 _ => Sys2Proof.Machine.execJnz m1 m2 s
  | .jz m1 m2 _ => Sys2Proof.Machine.execJz m1 m2 s
  | .lt m1 m2 m3 => Sys2Proof.Machine.execLt m1 m2 m3 s
  | .eq m1 m2 m3 => Sys2Proof.Machine.execEq m1 m2 m3 s
  | .setRb m1 _ _ => Sys2Proof.Machine.execSetRb m1 s
  | .halt _ _ _ => Sys2Proof.Machine.execHalt s

end Sys2Proof.Machine
end

