-- ==== Sys2Proof/Machine/HostPort.lean ====
section
/-! DEFINITION. What the host does to the core and sees of it (spec/70_reset_and_hazards.md R180 to R192), outside the
step function (log 18): reset and image load, fork, debug read, port values, and the placing of one instruction for a
test. The answers to input requests are `offerInput` of Machine/InputOutput.lean. -/

namespace Sys2Proof.Machine

open Sys2Proof

/-- The state after reset with image `P` (R35, R180) of a core with these parameters. -/
def bootImage (p : Params) (image : List Word) : State :=
  { State.reset with params := p, mem := Memory.ofImage 0 image, ext := image.length }

/-- Reset with an image, in any run state (R180). It is the only way out of HALTED and FAULTED (R156). The parameters,
the level of `run` and the host's coming answers are not the core's and stay; the event record starts anew (log 19). -/
def hostReset (s : State) (image : List Word) : State :=
  { bootImage s.params image with
    runEnable := s.runEnable, inAnswers := s.inAnswers, outAnswers := s.outAnswers }

/-- Fork (R188): another core, reset with the image that the host kept; nothing of the running core but its
parameters plays a part. -/
def fork (s : State) (image : List Word) : State := bootImage s.params image

/-- Set the level of the `run` port (R191). -/
def hostRun (s : State) (level : Bool) : State := { s with runEnable := level }

/-- Whether the debug read is served (R191): RUN is not READY, or `run` is deasserted. -/
def debugServed (s : State) : Bool := s.run != .ready || !s.runEnable

/-- The debug read (R191): `load` semantics, nothing for a negative address; it returns a word and no state. -/
def debugRead (s : State) (addr : Word) : Option Word :=
  if debugServed s && decide (0 ≤ addr.toInt) then some (s.mem.read addr.toNat) else none

/-- The 2-bit code of RUN on the status port (R25). -/
def RunState.code : RunState → BitVec 2
  | .ready => 0
  | .awaitingInput => 1
  | .halted => 2
  | .faulted => 3

/-- The status ports `run_state` and `in_req`, and `err`, `einfo`, `eslot` while they are valid (R191). While they are
not, nothing is shown (log 26). -/
structure Ports where
  runState : BitVec 2
  inReq : Bool
  error : Option (BitVec 3 × Word × BitVec 2)
  deriving DecidableEq, Repr

/-- What the status ports show (R191). -/
def ports (s : State) : Ports :=
  { runState := s.run.code
    inReq := s.run == .awaitingInput
    error := if s.run = .faulted then some (s.err, s.einfo, BitVec.ofNat 2 s.eslot.val) else none }

/-- The words the consumer has received, oldest first (R117, R118). -/
def State.outputs (s : State) : List Word :=
  s.io.filterMap fun
    | .out v => some v
    | .request => none

/-- Write words at consecutive addresses from `a` on, as far as addresses go. -/
def Memory.place (m : Memory) (a : Nat) : List Word → Memory
  | [] => m
  | w :: rest => if a < Config.addrLimit then Memory.place (m.write a w) (a + 1) rest else m

/-- Stand-in for an image load that puts these words where the next fetch reads them: the core is made READY with `run`
asserted and no error recorded, a negative PC (from which no fetch succeeds, R81) is replaced by 0, and EXT covers the
words as after a reset with an image that holds them (log 14). -/
def State.placeProgram (s : State) (words : List Word) : State :=
  let pc := if s.pc.toInt < 0 then 0 else s.pc
  { s with
    pc := pc
    run := .ready
    err := 0
    runEnable := true
    mem := s.mem.place pc.toNat words
    ext := max s.ext (pc.toNat + words.length) }

end Sys2Proof.Machine
end

