-- ==== Sys2Proof/Machine/Cycle.lean ====
section
/-! DEFINITION. The instruction cycle (spec/40_operands.md R80) and the transitions of the run state
(spec/60_exceptions.md R164). -/

namespace Sys2Proof.Machine

open Sys2Proof

/-- One instruction cycle (R80): fetch and decode, then the instruction's meaning; a fetch or decode error is raised. -/
def cycle (s : State) : Host.Outcome State Fault Refusal :=
  match fetchInstr s with
  | .ok i => exec i s
  | .error e => raise s e

/-- One architectural step (R164). READY: a cycle while `run` is asserted, nothing while it is not (R191).
AWAITING_INPUT: the host's next answer (R112). HALTED and FAULTED: a run request is a no-op (R141, R156). -/
def runStep (s : State) : Host.Outcome State Fault Refusal :=
  match s.run with
  | .ready => if s.runEnable then cycle s else .next s
  | .awaitingInput => awaitStep s
  | .halted => .next s
  | .faulted => .next s

end Sys2Proof.Machine
end

