-- ==== Sys2Proof/Machine/Step.lean ====
section
/-! DEFINITION. The step function, and the placing of one instruction where the next step fetches it. -/

namespace Sys2Proof.Machine

open Sys2Proof

/-- One architectural step. -/
def step (s : State) : Host.Outcome State Fault Refusal := runStep s

/-- The state with the instruction of a table word placed where the next step fetches and runs it (log 14). -/
def State.withFetchWord (s : State) (nbits w : Nat) : State := s.placeProgram (tableWords nbits w)

end Sys2Proof.Machine
end

