-- ==== Sys2Proof/Safety.lean ====
section
/-! DEFINITION. The words in which claims speak of runs: how a run has ended (spec/60_exceptions.md R165), the
invariant of spec/10_state.md R36, the frame of the state, and where a step may store. -/

namespace Sys2Proof

/-- The instructions of format RRW (R62). -/
def Instr.isRRW : Instr → Bool
  | .add _ _ _ => true
  | .mul _ _ _ => true
  | .lt _ _ _ => true
  | .eq _ _ _ => true
  | .input _ _ _ => false
  | .output _ _ _ => false
  | .jnz _ _ _ => false
  | .jz _ _ _ => false
  | .setRb _ _ _ => false
  | .halt _ _ _ => false

/-- The result word of an instruction of format RRW whose operands are `a` and `b`, written from the tables of R101 to
R104 and not from the meanings. -/
def Instr.rrwResult (i : Instr) (a b : Word) : Option Word :=
  match i with
  | .add _ _ _ => some (wrap64 (a.toInt + b.toInt))
  | .mul _ _ _ => some (wrap64 (a.toInt * b.toInt))
  | .lt _ _ _ => some (if a.toInt < b.toInt then 1 else 0)
  | .eq _ _ _ => some (if a = b then 1 else 0)
  | .input _ _ _ => none
  | .output _ _ _ => none
  | .jnz _ _ _ => none
  | .jz _ _ _ => none
  | .setRb _ _ _ => none
  | .halt _ _ _ => none

end Sys2Proof

namespace Sys2Proof.Machine

open Sys2Proof

/-- The run has ended (R165): HALTED is the normal end, FAULTED the abnormal one. A waiting core has not ended. -/
def State.ended (s : State) : Prop := s.run = .halted ∨ s.run = .faulted

/-- The invariant of R36, with the canonical form of memory and the place of the extent (R29). -/
structure State.Inv (s : State) : Prop where
  /-- R36 (a). -/
  readyPc : s.run = .ready → 0 ≤ s.pc.toInt ∨ s.pc.toInt = -9223372036854775808
  /-- R36 (b). -/
  awaiting : s.run = .awaitingInput → ∃ m1 m2 m3, fetchInstr s = .ok (.input m1 m2 m3) ∧
    (s.params.inputFaultBeforeRequest = true → 0 ≤ s.dst.toInt ∧ writeAddress s 1 m1 = .ok s.dst)
  /-- R36 (c). -/
  halted : s.run = .halted → ∃ m1 m2 m3, fetchInstr s = .ok (.halt m1 m2 m3)
  /-- R36 (d). -/
  errIff : s.err ≠ 0 ↔ s.run = .faulted
  /-- R28, and R36 (e) in the model's form: the listed words are finitely many, in canonical form. -/
  memWf : s.mem.wf
  /-- R29: every word that differs from 0 lies below EXT. -/
  extent : ∀ c ∈ s.mem, c.1 < s.ext

/-- `t` and `s` read the same at every address. -/
def SameMem (s t : State) : Prop := ∀ a, t.mem.read a = s.mem.read a

/-- `t` and `s` read the same at every address but `a`. -/
def SameMemBut (a : Nat) (s t : State) : Prop := ∀ b, b ≠ a → t.mem.read b = s.mem.read b

/-- The error registers agree (R26, R27). That EINFO and ESLOT keep their values outside FAULTED is the model's choice
(log 26). -/
def SameError (s t : State) : Prop := t.err = s.err ∧ t.einfo = s.einfo ∧ t.eslot = s.eslot

/-- The channels agree: the event record and the host's coming answers. -/
def SameChannels (s t : State) : Prop :=
  t.io = s.io ∧ t.inAnswers = s.inAnswers ∧ t.outAnswers = s.outAnswers

/-- What no instruction changes: the parameters and the level of `run`. -/
def SameHost (s t : State) : Prop := t.params = s.params ∧ t.runEnable = s.runEnable

/-- The extent agrees (R29). -/
def SameExtent (s t : State) : Prop := t.ext = s.ext ∧ t.growths = s.growths

/-- The effect of an instruction that stores `v` at `d` and goes on `size` words further: the stored word, every other
word, the extent (R29, R42), PC, and the frame. -/
structure StoreEffect (s t : State) (d v : Word) (size : Nat) : Prop where
  stored : t.mem.read d.toNat = v
  others : SameMemBut d.toNat s t
  extent : if d.toNat < s.ext then t.ext = s.ext else d.toNat + 1 ≤ t.ext
  pc : t.pc = wrap64 (s.pc.toInt + size)
  rb : t.rb = s.rb
  run : t.run = s.run
  /-- That DST outside AWAITING_INPUT keeps its value is the model's choice (log 26). -/
  dst : t.dst = s.dst
  error : SameError s t
  channels : SameChannels s t
  host : SameHost s t

/-- The step from `s` to `t` stores at address `a`: an instruction of format RRW completes with that destination
(R100), or an INPUT does (R112), whose destination then stands in DST. -/
def StoresAt (s t : State) (a : Nat) : Prop :=
  (s.run = .ready ∧ s.runEnable = true ∧ t.run = .ready ∧ ∃ i d, fetchInstr s = .ok i ∧ i.isRRW = true ∧
    writeAddress s 3 i.modes.2.2 = .ok d ∧ a = d.toNat) ∨
  (s.run = .awaitingInput ∧ t.run = .ready ∧ a = t.dst.toNat)

/-- What R100 says of an instruction `i` of format RRW with these modes whose result word is `result a b`: where the
operands can be evaluated and `MEM_CAP` leaves room, it completes with the store of the result and PC + 4; where their
evaluation raises, the fatal stop is its outcome. -/
def MeetsR100 (i : Instr) (m1 m2 m3 : Mode) (result : Word → Word → Word) : Prop :=
  ∀ s : State,
    (∀ a b d : Word, readOperand s 1 m1 = .ok a → readOperand s 2 m2 = .ok b → writeAddress s 3 m3 = .ok d →
      Params.capAllows s.params d.toNat = true → s.mem.wf →
      ∃ t, exec i s = .next t ∧ StoreEffect s t d (result a b) 4) ∧
    (∀ e, operandsRRW s m1 m2 m3 = .error e → exec i s = .next (s.fatalStop e))

/-- Whether the host's coming answer fails an output transaction (R119). -/
def OutputFails (s : State) : Prop := s.params.ioErrors = true ∧ s.outAnswers.head? = some .error

end Sys2Proof.Machine
end

