-- ==== Sys2Proof/Certificates/Slice0/Obligations.lean ====
section
/-! DEFINITION. The statements for the provers. Each docstring names the rules of spec/ that the statement formalises;
where a clause rests on a choice of the model, it names the log entry. -/

open Sys2Proof Sys2Proof.Machine

/-- R6, the law that all arithmetic of the machine rests on. -/
def Obligations.Wrap64IsSignedResidue : Prop :=
  ∀ x : Int, (wrap64 x).toInt =
    if x % 18446744073709551616 < 9223372036854775808 then x % 18446744073709551616
    else x % 18446744073709551616 - 18446744073709551616

/-- Sanity: the decoder on words of the spec's own table of decode results. -/
def Obligations.DecodeSpecWords : Prop :=
  decode false 21101 = .ok (.add .immediate .immediate .relative) ∧
  decode false 1002 = .ok (.mul .position .immediate .position) ∧
  decode false 203 = .ok (.input .relative .position .position) ∧
  decode false 10104 = .ok (.output .immediate .position .immediate) ∧
  decode false 2105 = .ok (.jnz .immediate .relative .position) ∧
  decode false 1006 = .ok (.jz .position .immediate .position) ∧
  decode false 22207 = .ok (.lt .relative .relative .relative) ∧
  decode false 8 = .ok (.eq .position .position .position) ∧
  decode false 209 = .ok (.setRb .relative .position .position) ∧
  decode false 20099 = .ok (.halt .position .position .relative) ∧
  decode false 100001 = .ok (.add .position .position .position) ∧
  decode true 100001 = .error .unknownOpcode ∧
  decode false 0 = .error .unknownOpcode ∧
  decode false (wrap64 (-99)) = .error .unknownOpcode ∧
  decode false 301 = .error (.unknownMode 1) ∧
  decode false 3099 = .error (.unknownMode 2) ∧
  decode false 30003 = .error (.unknownMode 3)

/-- R71 with R67 and R68: decode and encode agree in both directions, for every instruction and every word. -/
def Obligations.DecodeAgreesWithEncode : Prop :=
  ∀ (strict : Bool) (w : Word) (i : Instr),
    decode strict w = .ok i ↔
      0 ≤ w.toInt ∧ w.toInt % 100000 = encodeNat i ∧ (strict = true → w.toInt < 100000)

/-- R69; `legalWord` of WellFormed.lean states it without the decoder. The strict setting is R68's. -/
def Obligations.DecodeRejectsExactlyIllegalWords : Prop :=
  (∀ (strict : Bool) (w : Word), (∃ e, decode strict w = .error e) ↔ legalWord strict w = false) ∧
  (∀ strict : Bool, decode strict 0 = .error .unknownOpcode) ∧
  (∀ s : State, s.run = .ready → s.runEnable = true → 0 ≤ s.pc.toInt →
    legalWord s.params.strictUpperDigits (s.mem.read s.pc.toNat) = false →
    ∃ t, step s = .next t ∧ (t.err = 1 ∨ t.err = 2) ∧
      t = { s with run := .faulted, err := t.err, einfo := s.mem.read s.pc.toNat, eslot := t.eslot })

/-- R63, with the checks of WellFormed.lean, which do not use the decoder. -/
def Obligations.DecodeChecksInOrder : Prop :=
  ∀ w : Word,
    (wordSignLegal w = false ∨ wordOpcodeLegal w = false → decode false w = .error .unknownOpcode) ∧
    (wordSignLegal w = true → wordOpcodeLegal w = true →
      (wordModeLegal 1 w = false → decode false w = .error (.unknownMode 1)) ∧
      (wordModeLegal 1 w = true → wordModeLegal 2 w = false → decode false w = .error (.unknownMode 2)) ∧
      (wordModeLegal 1 w = true → wordModeLegal 2 w = true → wordModeLegal 3 w = false →
        decode false w = .error (.unknownMode 3)) ∧
      (wordModeLegal 1 w = true → wordModeLegal 2 w = true → wordModeLegal 3 w = true →
        ∃ i, decode false w = .ok i ∧ (i.opcode.code : Int) = w.toInt % 100 ∧
          (i.modes.1.digit : Int) = wordDigit 2 w ∧ (i.modes.2.1.digit : Int) = wordDigit 3 w ∧
          (i.modes.2.2.digit : Int) = wordDigit 4 w))

/-- R82, in exact integers: the wrap of PC + k and its fault. -/
def Obligations.ParameterFetchAddress : Prop :=
  ∀ (s : State) (k : Slot), 0 ≤ s.pc.toInt → k ≠ 0 →
    (s.pc.toInt + k.val ≤ 9223372036854775807 → paramWord s k = .ok (s.mem.read (s.pc.toNat + k.val))) ∧
    (9223372036854775807 < s.pc.toInt + k.val →
      ∃ e, paramWord s k = .error e ∧ e.cause = .negativeAddress ∧
        e.info.toInt = s.pc.toInt + k.val - 18446744073709551616 ∧ e.slot = k)

/-- R84, on every slot. -/
def Obligations.ReadOperandByMode : Prop :=
  ∀ (s : State) (k : Slot),
    (∀ e m, paramWord s k = .error e → readOperand s k m = .error e) ∧
    (∀ p, paramWord s k = .ok p →
      readOperand s k .immediate = .ok p ∧
      (0 ≤ p.toInt → readOperand s k .position = .ok (s.mem.read p.toNat)) ∧
      (p.toInt < 0 → readOperand s k .position = .error { cause := .negativeAddress, info := p, slot := k }) ∧
      (∀ ea, ea = wrap64 (p.toInt + s.rb.toInt) →
        (0 ≤ ea.toInt → readOperand s k .relative = .ok (s.mem.read ea.toNat)) ∧
        (ea.toInt < 0 →
          readOperand s k .relative = .error { cause := .negativeAddress, info := ea, slot := k })))

/-- R85, on every slot; the destination itself is not loaded. -/
def Obligations.WriteAddressByMode : Prop :=
  ∀ (s : State) (k : Slot),
    (∀ e m, paramWord s k = .error e → writeAddress s k m = .error e) ∧
    (∀ p, paramWord s k = .ok p →
      writeAddress s k .immediate = .error { cause := .immediateWrite, info := p, slot := k } ∧
      (0 ≤ p.toInt → writeAddress s k .position = .ok p) ∧
      (p.toInt < 0 → writeAddress s k .position = .error { cause := .negativeAddress, info := p, slot := k }) ∧
      (∀ ea, ea = wrap64 (p.toInt + s.rb.toInt) →
        (0 ≤ ea.toInt → writeAddress s k .relative = .ok ea) ∧
        (ea.toInt < 0 →
          writeAddress s k .relative = .error { cause := .negativeAddress, info := ea, slot := k })))

/-- R87 in exact integers; its three examples are instances. -/
def Obligations.RelativeAddressWraps : Prop :=
  ∀ (s : State) (p : Word),
    (-9223372036854775808 ≤ p.toInt + s.rb.toInt → p.toInt + s.rb.toInt ≤ 9223372036854775807 →
      (relativeAddr s p).toInt = p.toInt + s.rb.toInt) ∧
    (9223372036854775807 < p.toInt + s.rb.toInt →
      (relativeAddr s p).toInt = p.toInt + s.rb.toInt - 18446744073709551616 ∧ (relativeAddr s p).toInt < 0) ∧
    (p.toInt + s.rb.toInt < -9223372036854775808 →
      (relativeAddr s p).toInt = p.toInt + s.rb.toInt + 18446744073709551616 ∧ 0 ≤ (relativeAddr s p).toInt)

/-- R41, R42 and the source's invariant Q4 (95_test_vectors.md). That a store leaves DST, EINFO and ESLOT alone, where
R30, R27 and U19 leave them open, is the model's choice (DESIGN CHOICE, log 26). -/
def Obligations.StoreThenLoadReturnsWord : Prop :=
  ∀ (s : State) (k j : Slot) (addr v : Word), s.mem.wf →
    (addr.toInt < 0 →
      memWrite s k addr v = .error (.fatal { cause := .negativeAddress, info := addr, slot := k }) ∧
      load s.mem k addr = .error { cause := .negativeAddress, info := addr, slot := k }) ∧
    (0 ≤ addr.toInt → Params.capAllows s.params addr.toNat = true →
      ∃ t, memWrite s k addr v = .ok t ∧ load t.mem j addr = .ok v ∧
        (∀ b : Word, b ≠ addr → load t.mem j b = load s.mem j b) ∧
        (addr.toNat < s.ext → t.ext = s.ext) ∧ (s.ext ≤ addr.toNat → addr.toNat + 1 ≤ t.ext) ∧
        t = { s with mem := t.mem, ext := t.ext, growths := t.growths })

/-- R80, R81: the bridge from the statements about exec to runs. -/
def Obligations.StepRunsDecodedInstruction : Prop :=
  ∀ (s : State) (i : Instr), s.run = .ready → s.runEnable = true → 0 ≤ s.pc.toInt →
    decode s.params.strictUpperDigits (s.mem.read s.pc.toNat) = .ok i → step s = exec i s

/-- R151, R152 and R154 for the causes of fetch and decode; by R157 they come before every other cause. -/
def Obligations.FetchAndDecodeErrorsAreFatal : Prop :=
  ∀ s : State, s.run = .ready → s.runEnable = true →
    (s.pc.toInt < 0 → step s = .next { s with run := .faulted, err := 3, einfo := s.pc, eslot := 0 }) ∧
    (∀ w, 0 ≤ s.pc.toInt → s.mem.read s.pc.toNat = w →
      (decode s.params.strictUpperDigits w = .error .unknownOpcode →
        step s = .next { s with run := .faulted, err := 1, einfo := w, eslot := 0 }) ∧
      (∀ k, decode s.params.strictUpperDigits w = .error (.unknownMode k) →
        step s = .next { s with run := .faulted, err := 2, einfo := w, eslot := k }))

/-- R101 with R100. That DST, EINFO and ESLOT keep their values, which R27, R30 and U19 leave open here, is the
model's choice (DESIGN CHOICE, log 26). -/
def Obligations.AddStoresWrappedSum : Prop :=
  ∀ m1 m2 m3 : Mode, MeetsR100 (.add m1 m2 m3) m1 m2 m3 (fun a b => wrap64 (a.toInt + b.toInt))

/-- R102 with R100. That DST, EINFO and ESLOT keep their values, which R27, R30 and U19 leave open here, is the
model's choice (DESIGN CHOICE, log 26). -/
def Obligations.MulStoresWrappedProduct : Prop :=
  ∀ m1 m2 m3 : Mode, MeetsR100 (.mul m1 m2 m3) m1 m2 m3 (fun a b => wrap64 (a.toInt * b.toInt))

/-- R103 with R100. That DST, EINFO and ESLOT keep their values, which R27, R30 and U19 leave open here, is the
model's choice (DESIGN CHOICE, log 26). -/
def Obligations.LtStoresSignedComparison : Prop :=
  ∀ m1 m2 m3 : Mode, MeetsR100 (.lt m1 m2 m3) m1 m2 m3 (fun a b => if a.toInt < b.toInt then 1 else 0)

/-- R104 with R100. That DST, EINFO and ESLOT keep their values, which R27, R30 and U19 leave open here, is the
model's choice (DESIGN CHOICE, log 26). -/
def Obligations.EqStoresEquality : Prop :=
  ∀ m1 m2 m3 : Mode, MeetsR100 (.eq m1 m2 m3) m1 m2 m3 (fun a b => if a = b then 1 else 0)

/-- R86 (order, eager evaluation) and R157 (4). -/
def Obligations.LowestFaultingSlotWins : Prop :=
  (∀ (i : Instr) (s : State) (e : FatalError), i.isRRW = true →
    (readOperand s 1 i.modes.1 = .error e → exec i s = .next (s.fatalStop e)) ∧
    (∀ a, readOperand s 1 i.modes.1 = .ok a →
      (readOperand s 2 i.modes.2.1 = .error e → exec i s = .next (s.fatalStop e)) ∧
      (∀ b, readOperand s 2 i.modes.2.1 = .ok b → writeAddress s 3 i.modes.2.2 = .error e →
        exec i s = .next (s.fatalStop e)))) ∧
  (∀ (i : Instr) (s : State) (e : FatalError), i.opcode = .jnz ∨ i.opcode = .jz →
    (readOperand s 1 i.modes.1 = .error e → exec i s = .next (s.fatalStop e)) ∧
    (∀ a, readOperand s 1 i.modes.1 = .ok a → readOperand s 2 i.modes.2.1 = .error e →
      exec i s = .next (s.fatalStop e)))

/-- R130, with R132's check of the target. That DST, EINFO and ESLOT keep their values, which R27, R30 and U19 leave
open here, is the model's choice (DESIGN CHOICE, log 26). -/
def Obligations.JnzJumpsWhenNonZero : Prop :=
  ∀ (m1 m2 m3 : Mode) (s : State),
    (∀ e, operandsRR s m1 m2 = .error e → exec (.jnz m1 m2 m3) s = .next (s.fatalStop e)) ∧
    (∀ a b, readOperand s 1 m1 = .ok a → readOperand s 2 m2 = .ok b →
      (a.toInt ≠ 0 → 0 ≤ b.toInt → exec (.jnz m1 m2 m3) s = .next { s with pc := b }) ∧
      (a.toInt ≠ 0 → b.toInt < 0 →
        exec (.jnz m1 m2 m3) s = .next { s with run := .faulted, err := 3, einfo := b, eslot := 2 }) ∧
      (a.toInt = 0 → exec (.jnz m1 m2 m3) s = .next { s with pc := wrap64 (s.pc.toInt + 3) }))

/-- R131, with R132's check of the target. That DST, EINFO and ESLOT keep their values, which R27, R30 and U19 leave
open here, is the model's choice (DESIGN CHOICE, log 26). -/
def Obligations.JzJumpsWhenZero : Prop :=
  ∀ (m1 m2 m3 : Mode) (s : State),
    (∀ e, operandsRR s m1 m2 = .error e → exec (.jz m1 m2 m3) s = .next (s.fatalStop e)) ∧
    (∀ a b, readOperand s 1 m1 = .ok a → readOperand s 2 m2 = .ok b →
      (a.toInt = 0 → 0 ≤ b.toInt → exec (.jz m1 m2 m3) s = .next { s with pc := b }) ∧
      (a.toInt = 0 → b.toInt < 0 →
        exec (.jz m1 m2 m3) s = .next { s with run := .faulted, err := 3, einfo := b, eslot := 2 }) ∧
      (a.toInt ≠ 0 → exec (.jz m1 m2 m3) s = .next { s with pc := wrap64 (s.pc.toInt + 3) }))

/-- R140: it adds, it does not set. That DST, EINFO and ESLOT keep their values, which R27, R30 and U19 leave open
here, is the model's choice (DESIGN CHOICE, log 26). -/
def Obligations.SetRbAddsToRb : Prop :=
  ∀ (m1 m2 m3 : Mode) (s : State),
    (∀ a, readOperand s 1 m1 = .ok a →
      exec (.setRb m1 m2 m3) s =
        .next { s with rb := wrap64 (s.rb.toInt + a.toInt), pc := wrap64 (s.pc.toInt + 2) }) ∧
    (∀ e, readOperand s 1 m1 = .error e → exec (.setRb m1 m2 m3) s = .next (s.fatalStop e))

/-- R141. Reset is no step (log 18). That DST, EINFO and ESLOT keep their values, which R27, R30 and U19 leave open
here, is the model's choice (DESIGN CHOICE, log 26). -/
def Obligations.HaltStopsForGood : Prop :=
  ∀ (m1 m2 m3 : Mode) (s : State),
    exec (.halt m1 m2 m3) s = .next { s with run := .halted } ∧
    (∀ n : Nat, Host.Core.run Sys2Proof.core n { s with run := RunState.halted } =
      .next { s with run := RunState.halted }) ∧
    ∀ image : List Word, (hostReset { s with run := RunState.halted } image).run = .ready

/-- R117, with R119 for the failed transaction. That a failed word stands in the event record is R119's "was seen by
the consumer". The consumer's answers are the model's field (log 6, log 21). Where it completes, that DST, EINFO and
ESLOT keep their values, which R27, R30 and U19 leave open here, is the model's choice (DESIGN CHOICE, log 26). -/
def Obligations.OutputPresentsOperand : Prop :=
  ∀ (m1 m2 m3 : Mode) (s : State),
    (∀ a, readOperand s 1 m1 = .ok a → ¬ OutputFails s →
      exec (.output m1 m2 m3) s =
        .next { s with
          io := s.io ++ [.out a], pc := wrap64 (s.pc.toInt + 2),
          outAnswers := if s.params.ioErrors = true then s.outAnswers.tail else s.outAnswers }) ∧
    (∀ e, readOperand s 1 m1 = .error e → exec (.output m1 m2 m3) s = .next (s.fatalStop e)) ∧
    (∀ a, readOperand s 1 m1 = .ok a → OutputFails s →
      exec (.output m1 m2 m3) s =
        .next { s with
          io := s.io ++ [.out a], outAnswers := s.outAnswers.tail,
          run := .faulted, err := 5, einfo := 0, eslot := 0 })

/-- R111, and R112's request step of the deferred variant. The recorded request is the model's field (log 7). That
EINFO and ESLOT keep their values, and DST does in the deferred request, which R27, R30 and U19 leave open here, is
the model's choice (DESIGN CHOICE, log 26). -/
def Obligations.InputRequestStep : Prop :=
  ∀ (m1 m2 m3 : Mode) (s : State),
    (s.params.inputFaultBeforeRequest = true →
      (∀ d, writeAddress s 1 m1 = .ok d →
        exec (.input m1 m2 m3) s =
          .next { s with dst := d, io := s.io ++ [.request], run := .awaitingInput }) ∧
      (∀ e, writeAddress s 1 m1 = .error e → exec (.input m1 m2 m3) s = .next (s.fatalStop e))) ∧
    (s.params.inputFaultBeforeRequest = false →
      exec (.input m1 m2 m3) s = .next { s with io := s.io ++ [.request], run := .awaitingInput })

/-- R112, R119. That an unanswered wait is a step without change (log 9), and that DST keeps the address once the
store is done and EINFO and ESLOT keep their values (log 26), are the model's (DESIGN CHOICE). -/
def Obligations.InputCompletionStep : Prop :=
  ∀ s : State, s.run = .awaitingInput → s.mem.wf →
    (∀ v rest d, s.inAnswers = .word v :: rest →
      (s.params.inputFaultBeforeRequest = true ∧ s.dst = d ∧ 0 ≤ d.toInt ∨
        s.params.inputFaultBeforeRequest = false ∧
          ∃ m1 m2 m3, fetchInstr s = .ok (.input m1 m2 m3) ∧ writeAddress s 1 m1 = .ok d) →
      Params.capAllows s.params d.toNat = true →
      ∃ t, step s = .next t ∧ t.mem.read d.toNat = v ∧ SameMemBut d.toNat s t ∧
        (if d.toNat < s.ext then t.ext = s.ext else d.toNat + 1 ≤ t.ext) ∧
        t = { s with
          pc := wrap64 (s.pc.toInt + 2), run := .ready, dst := d, inAnswers := rest,
          mem := t.mem, ext := t.ext, growths := t.growths }) ∧
    (∀ v rest m1 m2 m3 e, s.inAnswers = .word v :: rest → s.params.inputFaultBeforeRequest = false →
      fetchInstr s = .ok (.input m1 m2 m3) → writeAddress s 1 m1 = .error e →
      step s = .next (State.fatalStop { s with inAnswers := rest } e)) ∧
    (∀ rest, s.inAnswers = .error :: rest → s.params.ioErrors = true →
      step s = .next { s with inAnswers := rest, run := .faulted, err := 5, einfo := 0, eslot := 0 }) ∧
    (∀ rest, s.inAnswers = .silent :: rest → step s = .next { s with inAnswers := rest }) ∧
    (s.inAnswers = [] → step s = .next s)

/-- R114: the two steps are the merged INPUT; D7: the variants differ only where the destination is bad. The answers
and the record are the model's fields (log 5, log 7), and that DST keeps the address in READY, and EINFO and ESLOT
their values, is its choice (DESIGN CHOICE, log 26). -/
def Obligations.InputTwoStepsAgreeInBothVariants : Prop :=
  ∀ (s : State) (m1 m2 m3 : Mode) (d v : Word) (rest : List InAnswer),
    s.run = .ready → s.runEnable = true → s.mem.wf → fetchInstr s = .ok (.input m1 m2 m3) →
    writeAddress s 1 m1 = .ok d → Params.capAllows s.params d.toNat = true → s.inAnswers = .word v :: rest →
    ∃ t : State, Host.Core.run Sys2Proof.core 2 s = .next t ∧ t.mem.read d.toNat = v ∧ SameMemBut d.toNat s t ∧
      t = { s with
        pc := wrap64 (s.pc.toInt + 2), dst := d, inAnswers := rest, io := s.io ++ [.request],
        mem := t.mem, ext := t.ext, growths := t.growths }

/-- R116. -/
def Obligations.UnsolicitedInputIsIgnored : Prop :=
  ∀ (s : State) (a : InAnswer), s.run ≠ .awaitingInput → offerInput s a = .next s

/-- R46, U3; only with a finite MEM_CAP, which is not the default. -/
def Obligations.StoreBeyondCapacityIsStuck : Prop :=
  (∀ (i : Instr) (s : State) (a b d : Word) (cap : Nat), i.isRRW = true →
    readOperand s 1 i.modes.1 = .ok a → readOperand s 2 i.modes.2.1 = .ok b →
    writeAddress s 3 i.modes.2.2 = .ok d → s.params.memCap = some cap → cap ≤ d.toNat →
    exec i s = .fault .memCapExceeded) ∧
  (∀ (s : State) (v : Word) (rest : List InAnswer) (cap : Nat), s.run = .awaitingInput →
    s.params.inputFaultBeforeRequest = true → s.inAnswers = .word v :: rest → 0 ≤ s.dst.toInt →
    s.params.memCap = some cap → cap ≤ s.dst.toNat → step s = .fault .memCapExceeded)

/-- R46, R80 and R164. That a core which waits without an answer, is paused or has ended has a next state, the same
one, is the model's (DESIGN CHOICE, log 9): R164 says 'no step' there for the wait, R112 and R166 call it stuck. -/
def Obligations.UnboundedMachineAlwaysSteps : Prop :=
  ∀ s : State, s.params.memCap = none → ∃ t, step s = .next t

/-- R154 and R155 (and Q9 of 95_test_vectors.md), R119 for IoError. That the failed word stands in the record
(DEDUCED, log 21) and that the answers are lists of which a transaction uses up one (DESIGN CHOICE, log 5, log 6) are
the model's. -/
def Obligations.FatalStopIsPrecise : Prop :=
  ∀ s t : State, s.run ≠ .faulted → step s = .next t → t.run = .faulted →
    t = { s with
      run := .faulted, err := t.err, einfo := t.einfo, eslot := t.eslot,
      inAnswers := t.inAnswers, outAnswers := t.outAnswers, io := t.io } ∧
    (1 ≤ t.err.toNat ∧ t.err.toNat ≤ 5) ∧
    (t.err ≠ 5 → t.io = s.io ∧ t.outAnswers = s.outAnswers) ∧
    (t.err = 5 → s.params.ioErrors = true ∧
      (s.run = .ready → t.outAnswers = s.outAnswers.tail ∧ ∃ m1 m2 m3 a, fetchInstr s = .ok (.output m1 m2 m3) ∧
        readOperand s 1 m1 = .ok a ∧ t.io = s.io ++ [.out a]) ∧
      (s.run = .awaitingInput → t.io = s.io ∧ t.outAnswers = s.outAnswers)) ∧
    (s.run = .ready → t.inAnswers = s.inAnswers) ∧
    (s.run = .awaitingInput → t.inAnswers = s.inAnswers.tail)

/-- R156 and R141; reset is no step. -/
def Obligations.EndedRunsStayEnded : Prop :=
  ∀ (n : Nat) (s : State), s.ended → Host.Core.run Sys2Proof.core n s = .next s

/-- R164's table, its row of reset first. The step of an unanswered wait and of a paused core is the model's (DESIGN
CHOICE, log 9). -/
def Obligations.RunStateTransitions : Prop :=
  (∀ (s : State) (image : List Word), (hostReset s image).run = .ready) ∧
  ∀ s t : State, s.Inv → step s = .next t →
    (s.run = .ready ∧ t.run = .ready ∧
      (s.runEnable = false ∧ t = s ∨
        ∃ i, fetchInstr s = .ok i ∧ i.opcode ≠ .input ∧ i.opcode ≠ .halt)) ∨
    (s.run = .ready ∧ t.run = .awaitingInput ∧ ∃ i, fetchInstr s = .ok i ∧ i.opcode = .input) ∨
    (s.run = .ready ∧ t.run = .halted ∧ ∃ i, fetchInstr s = .ok i ∧ i.opcode = .halt) ∨
    (s.run = .ready ∧ t.run = .faulted ∧ s.runEnable = true) ∨
    (s.run = .awaitingInput ∧ t.run = .ready ∧ ∃ v rest, s.inAnswers = .word v :: rest) ∨
    (s.run = .awaitingInput ∧ t.run = .faulted ∧
      ((∃ rest, s.inAnswers = .error :: rest ∧ s.params.ioErrors = true) ∨
       (∃ v rest m1 m2 m3 e, s.inAnswers = .word v :: rest ∧ s.params.inputFaultBeforeRequest = false ∧
         fetchInstr s = .ok (.input m1 m2 m3) ∧ writeAddress s 1 m1 = .error e))) ∨
    (s.run = .awaitingInput ∧ t.run = .awaitingInput ∧ t = { s with inAnswers := s.inAnswers.tail } ∧
      ¬ ∃ v rest, s.inAnswers = .word v :: rest) ∨
    (s.run = .halted ∧ t = s) ∨
    (s.run = .faulted ∧ t = s)

/-- R22's table. -/
def Obligations.PcAfterEachInstruction : Prop :=
  (∀ (s t : State) (i : Instr), s.run = .ready → s.runEnable = true → fetchInstr s = .ok i →
    step s = .next t → t.run ≠ .faulted →
    match i with
    | .add _ _ _ => t.pc = wrap64 (s.pc.toInt + 4)
    | .mul _ _ _ => t.pc = wrap64 (s.pc.toInt + 4)
    | .lt _ _ _ => t.pc = wrap64 (s.pc.toInt + 4)
    | .eq _ _ _ => t.pc = wrap64 (s.pc.toInt + 4)
    | .input _ _ _ => t.pc = s.pc
    | .output _ _ _ => t.pc = wrap64 (s.pc.toInt + 2)
    | .setRb _ _ _ => t.pc = wrap64 (s.pc.toInt + 2)
    | .halt _ _ _ => t.pc = s.pc
    | .jnz m1 m2 _ => ∃ a b, readOperand s 1 m1 = .ok a ∧ readOperand s 2 m2 = .ok b ∧
        (a.toInt ≠ 0 ∧ 0 ≤ b.toInt ∧ t.pc = b ∨ a.toInt = 0 ∧ t.pc = wrap64 (s.pc.toInt + 3))
    | .jz m1 m2 _ => ∃ a b, readOperand s 1 m1 = .ok a ∧ readOperand s 2 m2 = .ok b ∧
        (a.toInt = 0 ∧ 0 ≤ b.toInt ∧ t.pc = b ∨ a.toInt ≠ 0 ∧ t.pc = wrap64 (s.pc.toInt + 3))) ∧
  (∀ s t : State, s.run = .awaitingInput → step s = .next t → t.run = .ready →
    t.pc = wrap64 (s.pc.toInt + 2)) ∧
  (∀ s t : State, step s = .next t → t.run = .faulted → t.pc = s.pc)

/-- R24 and R90: a rule over all instructions. -/
def Obligations.OnlySetRbChangesRb : Prop :=
  ∀ s t : State, step s = .next t → t.rb ≠ s.rb →
    s.run = .ready ∧ s.runEnable = true ∧
      ∃ m1 m2 m3 a, fetchInstr s = .ok (.setRb m1 m2 m3) ∧ readOperand s 1 m1 = .ok a ∧
        t.rb = wrap64 (s.rb.toInt + a.toInt)

/-- R28: memory is changed only by MemWrite, which changes exactly one address. That DST holds a completed INPUT's
destination is the model's choice (log 26). -/
def Obligations.MemoryChangesOnlyAtDestination : Prop :=
  ∀ s t : State, s.mem.wf → step s = .next t → ∀ a, t.mem.read a ≠ s.mem.read a →
    (s.run = .ready ∧ t.run = .ready ∧ ∃ i d, fetchInstr s = .ok i ∧ i.isRRW = true ∧
      writeAddress s 3 i.modes.2.2 = .ok d ∧ a = d.toNat) ∨
    (s.run = .awaitingInput ∧ t.run = .ready ∧ ∃ v rest, s.inAnswers = .word v :: rest ∧
      a = t.dst.toNat ∧ t.mem.read a = v)

/-- R29, R42, R44: loads never allocate. That DST holds a completed INPUT's destination is the model's choice (log
26). -/
def Obligations.ExtentGrowsOnlyByStores : Prop :=
  ∀ s t : State, step s = .next t →
    s.ext ≤ t.ext ∧
    (t.ext ≠ s.ext →
      (s.run = .ready ∧ ∃ i d, fetchInstr s = .ok i ∧ i.isRRW = true ∧
        writeAddress s 3 i.modes.2.2 = .ok d ∧ s.ext ≤ d.toNat ∧ d.toNat < t.ext) ∨
      (s.run = .awaitingInput ∧ t.run = .ready ∧ s.ext ≤ t.dst.toNat ∧ t.dst.toNat < t.ext))

/-- R113, R118, R120: one sequence in program execution order, each word exactly once. The record is the model's field
(log 7). -/
def Obligations.ChannelEventsInProgramOrder : Prop :=
  ∀ s t : State, step s = .next t →
    t.io = s.io ∨
    (s.run = .ready ∧ t.run = .awaitingInput ∧ t.io = s.io ++ [.request] ∧
      ∃ m1 m2 m3, fetchInstr s = .ok (.input m1 m2 m3)) ∨
    (s.run = .ready ∧ ∃ m1 m2 m3 a, fetchInstr s = .ok (.output m1 m2 m3) ∧
      readOperand s 1 m1 = .ok a ∧ t.io = s.io ++ [.out a])

/-- R57: self-modifying code takes effect at the very next instruction. The result word is that of R101 to R104
(`Instr.rrwResult`). The host's answers are the model's field (log 5). -/
def Obligations.StoreIsSeenByNextFetch : Prop :=
  (∀ (s : State) (i : Instr) (a b d r : Word), s.run = .ready → s.runEnable = true → s.mem.wf →
    fetchInstr s = .ok i → readOperand s 1 i.modes.1 = .ok a → readOperand s 2 i.modes.2.1 = .ok b →
    writeAddress s 3 i.modes.2.2 = .ok d → Params.capAllows s.params d.toNat = true →
    i.rrwResult a b = some r → d = wrap64 (s.pc.toInt + 4) →
    ∃ t, step s = .next t ∧
      (∀ j, decode s.params.strictUpperDigits r = .ok j → step t = exec j t) ∧
      (∀ e, decode s.params.strictUpperDigits r = .error e → step t = .next (t.fatalStop (decodeFatal r e)))) ∧
  (∀ (s : State) (v d : Word) (rest : List InAnswer), s.run = .awaitingInput → s.runEnable = true → s.mem.wf →
    s.inAnswers = .word v :: rest →
    (s.params.inputFaultBeforeRequest = true ∧ s.dst = d ∧ 0 ≤ d.toInt ∨
      s.params.inputFaultBeforeRequest = false ∧
        ∃ m1 m2 m3, fetchInstr s = .ok (.input m1 m2 m3) ∧ writeAddress s 1 m1 = .ok d) →
    Params.capAllows s.params d.toNat = true → d = wrap64 (s.pc.toInt + 2) →
    ∃ t, step s = .next t ∧
      (∀ j, decode s.params.strictUpperDigits v = .ok j → step t = exec j t) ∧
      (∀ e, decode s.params.strictUpperDigits v = .error e → step t = .next (t.fatalStop (decodeFatal v e))))

/-- R70, R85: legal for the decoder, fatal at execution. -/
def Obligations.ImmediateWriteNeverCompletes : Prop :=
  ∀ (i : Instr) (s : State), i.wellFormed = false →
    i.isRRW = true ∨ s.params.inputFaultBeforeRequest = true →
    (∃ e, exec i s = .next (s.fatalStop e)) ∧
    (∀ a b p, i.isRRW = true → readOperand s 1 i.modes.1 = .ok a → readOperand s 2 i.modes.2.1 = .ok b →
      paramWord s 3 = .ok p →
      exec i s = .next { s with run := .faulted, err := 4, einfo := p, eslot := 3 }) ∧
    (∀ p, i.opcode = .input → paramWord s 1 = .ok p →
      exec i s = .next { s with run := .faulted, err := 4, einfo := p, eslot := 1 })

/-- R36 (a) to (e), with R23's single wrapped value of PC. -/
def Obligations.InvariantIsKept : Prop :=
  ∀ s t : State, s.Inv → step s = .next t → t.Inv

/-- R35 with R36. -/
def Obligations.InvariantHoldsAtReset : Prop :=
  State.reset.Inv

/-- R180 and R184 with R36. -/
def Obligations.ImageLoadMeetsInvariant : Prop :=
  ∀ (s : State) (image : List Word), (hostReset s image).Inv

/-- R35's table; DST, EINFO, ESLOT are unspecified there and nothing is said of them. That the event record starts
anew is the model's reading (log 19). -/
def Obligations.ResetLoadsImage : Prop :=
  ∀ (s : State) (image : List Word),
    (hostReset s image).pc = 0 ∧ (hostReset s image).rb = 0 ∧ (hostReset s image).run = .ready ∧
    (hostReset s image).err = 0 ∧ (hostReset s image).ext = image.length ∧ (hostReset s image).io = [] ∧
    ∀ a, a < Config.addrLimit → (hostReset s image).mem.read a = image.getD a 0

/-- R69 (b) and R183. -/
def Obligations.UntouchedMemoryIsDecodeError : Prop :=
  (∀ s : State, s.run = .ready → s.runEnable = true → 0 ≤ s.pc.toInt → s.mem.read s.pc.toNat = 0 →
    step s = .next { s with run := .faulted, err := 1, einfo := 0, eslot := 0 }) ∧
  (∀ s : State, s.Inv → s.run = .ready → s.runEnable = true → 0 ≤ s.pc.toInt → s.ext ≤ s.pc.toNat →
    step s = .next { s with run := .faulted, err := 1, einfo := 0, eslot := 0 }) ∧
  (∀ s : State, s.runEnable = true →
    ∃ t, step (hostReset s []) = .next t ∧
      t.run = .faulted ∧ t.err = 1 ∧ t.einfo = 0 ∧ t.eslot = 0 ∧ t.pc = 0)

/-- R191's run port. That a paused step is a step without change is the model's (DESIGN CHOICE, log 9). -/
def Obligations.PausedCoreHolds : Prop :=
  ∀ s : State, s.run = .ready → s.runEnable = false → step s = .next s

/-- R191's debug port. That nothing is served between cycles of a running core is the model's reading (log 20). -/
def Obligations.DebugReadHasLoadSemantics : Prop :=
  ∀ (s : State) (addr : Word),
    (s.run = .ready → s.runEnable = true → debugRead s addr = none) ∧
    (addr.toInt < 0 → debugRead s addr = none) ∧
    (s.run ≠ .ready ∨ s.runEnable = false → ∀ v, debugRead s addr = some v ↔ load s.mem 0 addr = .ok v)

/-- R121: the source's property of programs without INPUT, over runs of any length from any state. The answers are the
model's field (log 5). -/
def Obligations.RunWithoutWaitingIgnoresInput : Prop :=
  ∀ (n : Nat) (s t : State) (answers : List InAnswer),
    (∀ k, k < n → ∀ u : State, Host.Core.run Sys2Proof.core k s = .next u → u.run ≠ .awaitingInput) →
    Host.Core.run Sys2Proof.core n s = .next t →
    Host.Core.run Sys2Proof.core n { s with inAnswers := answers } = .next { t with inAnswers := answers }

/-- R5, R34: parameters of a run, not state of the core. That they stand in State, and that the level of the run port
(R191) does and is changed by no step, is the model's (DESIGN CHOICE, log 4, log 8). -/
def Obligations.ParametersNeverChange : Prop :=
  ∀ s t : State, step s = .next t → t.params = s.params ∧ t.runEnable = s.runEnable

/-- R151 and R152; the premise s.Inv rules out a waiting core with a negative DST (log 12). -/
def Obligations.FaultRecordsItsCause : Prop :=
  ∀ s t : State, s.Inv → s.run ≠ .faulted → step s = .next t → t.run = .faulted →
    (t.err = 1 → 0 ≤ s.pc.toInt ∧ t.einfo = s.mem.read s.pc.toNat ∧ t.eslot = 0 ∧
      decode s.params.strictUpperDigits (s.mem.read s.pc.toNat) = .error .unknownOpcode) ∧
    (t.err = 2 → 0 ≤ s.pc.toInt ∧ t.einfo = s.mem.read s.pc.toNat ∧
      decode s.params.strictUpperDigits (s.mem.read s.pc.toNat) = .error (.unknownMode t.eslot)) ∧
    (t.err = 3 → t.einfo.toInt < 0 ∧ (t.eslot = 0 → t.einfo = s.pc) ∧
      (t.eslot ≠ 0 → t.einfo = wrap64 (s.pc.toInt + t.eslot.val) ∨
        (∃ p, paramWord s t.eslot = .ok p ∧ (t.einfo = p ∨ t.einfo = relativeAddr s p)) ∨
        (t.eslot = 2 ∧ ∃ i, fetchInstr s = .ok i ∧ (i.opcode = .jnz ∨ i.opcode = .jz) ∧
          readOperand s 2 i.modes.2.1 = .ok t.einfo))) ∧
    (t.err = 4 → ∃ i, fetchInstr s = .ok i ∧ i.writeMode = some .immediate ∧
      t.eslot = (if i.opcode = .input then 1 else 3) ∧ paramWord s t.eslot = .ok t.einfo) ∧
    (t.err = 5 → t.einfo = 0 ∧ t.eslot = 0)

/-- R25's codes and R191's run_state, in_req, err, einfo, eslot. That the model shows nothing where the error ports
are not valid is its reading (log 26). -/
def Obligations.StatusPortsShowTheState : Prop :=
  ∀ s : State,
    ((ports s).runState = 0 ↔ s.run = .ready) ∧ ((ports s).runState = 1 ↔ s.run = .awaitingInput) ∧
    ((ports s).runState = 2 ↔ s.run = .halted) ∧ ((ports s).runState = 3 ↔ s.run = .faulted) ∧
    ((ports s).inReq = true ↔ s.run = .awaitingInput) ∧
    (s.run = .faulted → ∃ slot : BitVec 2, (ports s).error = some (s.err, s.einfo, slot) ∧
      slot.toNat = s.eslot.val ∧ (s.Inv → s.err ≠ 0)) ∧
    (s.run ≠ .faulted → (ports s).error = none)

/-- R188, and Q1's fork independence. The host's part of the state is the model's choice (log 19). -/
def Obligations.ForkIgnoresTheRunningCore : Prop :=
  ∀ (k : Nat) (s u : State) (image : List Word), Host.Core.run Sys2Proof.core k s = .next u →
    fork u image = fork s image ∧
    ((fork u image).pc = 0 ∧ (fork u image).rb = 0 ∧ (fork u image).run = .ready ∧ (fork u image).err = 0 ∧
      (fork u image).io = [] ∧
      ∀ a, a < Config.addrLimit → (fork u image).mem.read a = image.getD a 0) ∧
    ∀ (n : Nat) (ins : List InAnswer) (outs : List OutAnswer),
      Host.Core.run Sys2Proof.core n { fork u image with inAnswers := ins, outAnswers := outs } =
        Host.Core.run Sys2Proof.core n
          { hostReset s image with runEnable := true, inAnswers := ins, outAnswers := outs }

/-- R28, R50 and Q2 with C8. That DST holds a completed INPUT's destination is the model's choice (log 26). -/
def Obligations.NeverStoredWordsReadAsAtReset : Prop :=
  ∀ (n : Nat) (s u : State) (image : List Word) (a : Nat), a < Config.addrLimit →
    (∀ k, k < n → ∀ x y : State, Host.Core.run Sys2Proof.core k (hostReset s image) = .next x →
      step x = .next y → ¬ StoresAt x y a) →
    Host.Core.run Sys2Proof.core n (hostReset s image) = .next u → u.mem.read a = image.getD a 0
end

