-- ==== Sys2Proof/Laws/State.lean ====
section
/-! SUPPORT. What each named update of State does to each field: one lemma per field and update, by rfl. -/

namespace Sys2Proof.Machine

open Sys2Proof

/-! ### setPc -/

@[simp] theorem State.setPc_pc (s : State) (v : Word) : (s.setPc v).pc = v := rfl
@[simp] theorem State.setPc_rb (s : State) (v : Word) : (s.setPc v).rb = s.rb := rfl
@[simp] theorem State.setPc_run (s : State) (v : Word) : (s.setPc v).run = s.run := rfl
@[simp] theorem State.setPc_err (s : State) (v : Word) : (s.setPc v).err = s.err := rfl
@[simp] theorem State.setPc_einfo (s : State) (v : Word) : (s.setPc v).einfo = s.einfo := rfl
@[simp] theorem State.setPc_eslot (s : State) (v : Word) : (s.setPc v).eslot = s.eslot := rfl
@[simp] theorem State.setPc_dst (s : State) (v : Word) : (s.setPc v).dst = s.dst := rfl
@[simp] theorem State.setPc_mem (s : State) (v : Word) : (s.setPc v).mem = s.mem := rfl
@[simp] theorem State.setPc_ext (s : State) (v : Word) : (s.setPc v).ext = s.ext := rfl
@[simp] theorem State.setPc_growths (s : State) (v : Word) : (s.setPc v).growths = s.growths := rfl
@[simp] theorem State.setPc_params (s : State) (v : Word) : (s.setPc v).params = s.params := rfl
@[simp] theorem State.setPc_runEnable (s : State) (v : Word) : (s.setPc v).runEnable = s.runEnable := rfl
@[simp] theorem State.setPc_inAnswers (s : State) (v : Word) : (s.setPc v).inAnswers = s.inAnswers := rfl
@[simp] theorem State.setPc_outAnswers (s : State) (v : Word) : (s.setPc v).outAnswers = s.outAnswers := rfl
@[simp] theorem State.setPc_io (s : State) (v : Word) : (s.setPc v).io = s.io := rfl

/-! ### setRb -/

@[simp] theorem State.setRb_pc (s : State) (v : Word) : (s.setRb v).pc = s.pc := rfl
@[simp] theorem State.setRb_rb (s : State) (v : Word) : (s.setRb v).rb = v := rfl
@[simp] theorem State.setRb_run (s : State) (v : Word) : (s.setRb v).run = s.run := rfl
@[simp] theorem State.setRb_err (s : State) (v : Word) : (s.setRb v).err = s.err := rfl
@[simp] theorem State.setRb_einfo (s : State) (v : Word) : (s.setRb v).einfo = s.einfo := rfl
@[simp] theorem State.setRb_eslot (s : State) (v : Word) : (s.setRb v).eslot = s.eslot := rfl
@[simp] theorem State.setRb_dst (s : State) (v : Word) : (s.setRb v).dst = s.dst := rfl
@[simp] theorem State.setRb_mem (s : State) (v : Word) : (s.setRb v).mem = s.mem := rfl
@[simp] theorem State.setRb_ext (s : State) (v : Word) : (s.setRb v).ext = s.ext := rfl
@[simp] theorem State.setRb_growths (s : State) (v : Word) : (s.setRb v).growths = s.growths := rfl
@[simp] theorem State.setRb_params (s : State) (v : Word) : (s.setRb v).params = s.params := rfl
@[simp] theorem State.setRb_runEnable (s : State) (v : Word) : (s.setRb v).runEnable = s.runEnable := rfl
@[simp] theorem State.setRb_inAnswers (s : State) (v : Word) : (s.setRb v).inAnswers = s.inAnswers := rfl
@[simp] theorem State.setRb_outAnswers (s : State) (v : Word) : (s.setRb v).outAnswers = s.outAnswers := rfl
@[simp] theorem State.setRb_io (s : State) (v : Word) : (s.setRb v).io = s.io := rfl

/-! ### setRun -/

@[simp] theorem State.setRun_pc (s : State) (r : RunState) : (s.setRun r).pc = s.pc := rfl
@[simp] theorem State.setRun_rb (s : State) (r : RunState) : (s.setRun r).rb = s.rb := rfl
@[simp] theorem State.setRun_run (s : State) (r : RunState) : (s.setRun r).run = r := rfl
@[simp] theorem State.setRun_err (s : State) (r : RunState) : (s.setRun r).err = s.err := rfl
@[simp] theorem State.setRun_einfo (s : State) (r : RunState) : (s.setRun r).einfo = s.einfo := rfl
@[simp] theorem State.setRun_eslot (s : State) (r : RunState) : (s.setRun r).eslot = s.eslot := rfl
@[simp] theorem State.setRun_dst (s : State) (r : RunState) : (s.setRun r).dst = s.dst := rfl
@[simp] theorem State.setRun_mem (s : State) (r : RunState) : (s.setRun r).mem = s.mem := rfl
@[simp] theorem State.setRun_ext (s : State) (r : RunState) : (s.setRun r).ext = s.ext := rfl
@[simp] theorem State.setRun_growths (s : State) (r : RunState) : (s.setRun r).growths = s.growths := rfl
@[simp] theorem State.setRun_params (s : State) (r : RunState) : (s.setRun r).params = s.params := rfl
@[simp] theorem State.setRun_runEnable (s : State) (r : RunState) : (s.setRun r).runEnable = s.runEnable := rfl
@[simp] theorem State.setRun_inAnswers (s : State) (r : RunState) : (s.setRun r).inAnswers = s.inAnswers := rfl
@[simp] theorem State.setRun_outAnswers (s : State) (r : RunState) : (s.setRun r).outAnswers = s.outAnswers := rfl
@[simp] theorem State.setRun_io (s : State) (r : RunState) : (s.setRun r).io = s.io := rfl

/-! ### setDst -/

@[simp] theorem State.setDst_pc (s : State) (v : Word) : (s.setDst v).pc = s.pc := rfl
@[simp] theorem State.setDst_rb (s : State) (v : Word) : (s.setDst v).rb = s.rb := rfl
@[simp] theorem State.setDst_run (s : State) (v : Word) : (s.setDst v).run = s.run := rfl
@[simp] theorem State.setDst_err (s : State) (v : Word) : (s.setDst v).err = s.err := rfl
@[simp] theorem State.setDst_einfo (s : State) (v : Word) : (s.setDst v).einfo = s.einfo := rfl
@[simp] theorem State.setDst_eslot (s : State) (v : Word) : (s.setDst v).eslot = s.eslot := rfl
@[simp] theorem State.setDst_dst (s : State) (v : Word) : (s.setDst v).dst = v := rfl
@[simp] theorem State.setDst_mem (s : State) (v : Word) : (s.setDst v).mem = s.mem := rfl
@[simp] theorem State.setDst_ext (s : State) (v : Word) : (s.setDst v).ext = s.ext := rfl
@[simp] theorem State.setDst_growths (s : State) (v : Word) : (s.setDst v).growths = s.growths := rfl
@[simp] theorem State.setDst_params (s : State) (v : Word) : (s.setDst v).params = s.params := rfl
@[simp] theorem State.setDst_runEnable (s : State) (v : Word) : (s.setDst v).runEnable = s.runEnable := rfl
@[simp] theorem State.setDst_inAnswers (s : State) (v : Word) : (s.setDst v).inAnswers = s.inAnswers := rfl
@[simp] theorem State.setDst_outAnswers (s : State) (v : Word) : (s.setDst v).outAnswers = s.outAnswers := rfl
@[simp] theorem State.setDst_io (s : State) (v : Word) : (s.setDst v).io = s.io := rfl

/-! ### setInAnswers -/

@[simp] theorem State.setInAnswers_pc (s : State) (l : List InAnswer) : (s.setInAnswers l).pc = s.pc := rfl
@[simp] theorem State.setInAnswers_rb (s : State) (l : List InAnswer) : (s.setInAnswers l).rb = s.rb := rfl
@[simp] theorem State.setInAnswers_run (s : State) (l : List InAnswer) : (s.setInAnswers l).run = s.run := rfl
@[simp] theorem State.setInAnswers_err (s : State) (l : List InAnswer) : (s.setInAnswers l).err = s.err := rfl
@[simp] theorem State.setInAnswers_einfo (s : State) (l : List InAnswer) : (s.setInAnswers l).einfo = s.einfo := rfl
@[simp] theorem State.setInAnswers_eslot (s : State) (l : List InAnswer) : (s.setInAnswers l).eslot = s.eslot := rfl
@[simp] theorem State.setInAnswers_dst (s : State) (l : List InAnswer) : (s.setInAnswers l).dst = s.dst := rfl
@[simp] theorem State.setInAnswers_mem (s : State) (l : List InAnswer) : (s.setInAnswers l).mem = s.mem := rfl
@[simp] theorem State.setInAnswers_ext (s : State) (l : List InAnswer) : (s.setInAnswers l).ext = s.ext := rfl
@[simp] theorem State.setInAnswers_growths (s : State) (l : List InAnswer) : (s.setInAnswers l).growths = s.growths := rfl
@[simp] theorem State.setInAnswers_params (s : State) (l : List InAnswer) : (s.setInAnswers l).params = s.params := rfl
@[simp] theorem State.setInAnswers_runEnable (s : State) (l : List InAnswer) : (s.setInAnswers l).runEnable = s.runEnable := rfl
@[simp] theorem State.setInAnswers_inAnswers (s : State) (l : List InAnswer) : (s.setInAnswers l).inAnswers = l := rfl
@[simp] theorem State.setInAnswers_outAnswers (s : State) (l : List InAnswer) : (s.setInAnswers l).outAnswers = s.outAnswers := rfl
@[simp] theorem State.setInAnswers_io (s : State) (l : List InAnswer) : (s.setInAnswers l).io = s.io := rfl

/-! ### record -/

@[simp] theorem State.record_pc (s : State) (e : IoEvent) : (s.record e).pc = s.pc := rfl
@[simp] theorem State.record_rb (s : State) (e : IoEvent) : (s.record e).rb = s.rb := rfl
@[simp] theorem State.record_run (s : State) (e : IoEvent) : (s.record e).run = s.run := rfl
@[simp] theorem State.record_err (s : State) (e : IoEvent) : (s.record e).err = s.err := rfl
@[simp] theorem State.record_einfo (s : State) (e : IoEvent) : (s.record e).einfo = s.einfo := rfl
@[simp] theorem State.record_eslot (s : State) (e : IoEvent) : (s.record e).eslot = s.eslot := rfl
@[simp] theorem State.record_dst (s : State) (e : IoEvent) : (s.record e).dst = s.dst := rfl
@[simp] theorem State.record_mem (s : State) (e : IoEvent) : (s.record e).mem = s.mem := rfl
@[simp] theorem State.record_ext (s : State) (e : IoEvent) : (s.record e).ext = s.ext := rfl
@[simp] theorem State.record_growths (s : State) (e : IoEvent) : (s.record e).growths = s.growths := rfl
@[simp] theorem State.record_params (s : State) (e : IoEvent) : (s.record e).params = s.params := rfl
@[simp] theorem State.record_runEnable (s : State) (e : IoEvent) : (s.record e).runEnable = s.runEnable := rfl
@[simp] theorem State.record_inAnswers (s : State) (e : IoEvent) : (s.record e).inAnswers = s.inAnswers := rfl
@[simp] theorem State.record_outAnswers (s : State) (e : IoEvent) : (s.record e).outAnswers = s.outAnswers := rfl
@[simp] theorem State.record_io (s : State) (e : IoEvent) : (s.record e).io = s.io ++ [e] := rfl

/-! ### advance -/

@[simp] theorem State.advance_pc (s : State) (n : Nat) : (s.advance n).pc = wrap64 (s.pc.toInt + n) := rfl
@[simp] theorem State.advance_rb (s : State) (n : Nat) : (s.advance n).rb = s.rb := rfl
@[simp] theorem State.advance_run (s : State) (n : Nat) : (s.advance n).run = s.run := rfl
@[simp] theorem State.advance_err (s : State) (n : Nat) : (s.advance n).err = s.err := rfl
@[simp] theorem State.advance_einfo (s : State) (n : Nat) : (s.advance n).einfo = s.einfo := rfl
@[simp] theorem State.advance_eslot (s : State) (n : Nat) : (s.advance n).eslot = s.eslot := rfl
@[simp] theorem State.advance_dst (s : State) (n : Nat) : (s.advance n).dst = s.dst := rfl
@[simp] theorem State.advance_mem (s : State) (n : Nat) : (s.advance n).mem = s.mem := rfl
@[simp] theorem State.advance_ext (s : State) (n : Nat) : (s.advance n).ext = s.ext := rfl
@[simp] theorem State.advance_growths (s : State) (n : Nat) : (s.advance n).growths = s.growths := rfl
@[simp] theorem State.advance_params (s : State) (n : Nat) : (s.advance n).params = s.params := rfl
@[simp] theorem State.advance_runEnable (s : State) (n : Nat) : (s.advance n).runEnable = s.runEnable := rfl
@[simp] theorem State.advance_inAnswers (s : State) (n : Nat) : (s.advance n).inAnswers = s.inAnswers := rfl
@[simp] theorem State.advance_outAnswers (s : State) (n : Nat) : (s.advance n).outAnswers = s.outAnswers := rfl
@[simp] theorem State.advance_io (s : State) (n : Nat) : (s.advance n).io = s.io := rfl

/-! ### storeWord -/

@[simp] theorem State.storeWord_pc (s : State) (a : Nat) (v : Word) : (s.storeWord a v).pc = s.pc := rfl
@[simp] theorem State.storeWord_rb (s : State) (a : Nat) (v : Word) : (s.storeWord a v).rb = s.rb := rfl
@[simp] theorem State.storeWord_run (s : State) (a : Nat) (v : Word) : (s.storeWord a v).run = s.run := rfl
@[simp] theorem State.storeWord_err (s : State) (a : Nat) (v : Word) : (s.storeWord a v).err = s.err := rfl
@[simp] theorem State.storeWord_einfo (s : State) (a : Nat) (v : Word) : (s.storeWord a v).einfo = s.einfo := rfl
@[simp] theorem State.storeWord_eslot (s : State) (a : Nat) (v : Word) : (s.storeWord a v).eslot = s.eslot := rfl
@[simp] theorem State.storeWord_dst (s : State) (a : Nat) (v : Word) : (s.storeWord a v).dst = s.dst := rfl
@[simp] theorem State.storeWord_mem (s : State) (a : Nat) (v : Word) : (s.storeWord a v).mem = s.mem.write a v := rfl
@[simp] theorem State.storeWord_ext (s : State) (a : Nat) (v : Word) : (s.storeWord a v).ext = if a < s.ext then s.ext else a + 1 + Config.growthSlack s.growths := rfl
@[simp] theorem State.storeWord_growths (s : State) (a : Nat) (v : Word) : (s.storeWord a v).growths = if a < s.ext then s.growths else s.growths + 1 := rfl
@[simp] theorem State.storeWord_params (s : State) (a : Nat) (v : Word) : (s.storeWord a v).params = s.params := rfl
@[simp] theorem State.storeWord_runEnable (s : State) (a : Nat) (v : Word) : (s.storeWord a v).runEnable = s.runEnable := rfl
@[simp] theorem State.storeWord_inAnswers (s : State) (a : Nat) (v : Word) : (s.storeWord a v).inAnswers = s.inAnswers := rfl
@[simp] theorem State.storeWord_outAnswers (s : State) (a : Nat) (v : Word) : (s.storeWord a v).outAnswers = s.outAnswers := rfl
@[simp] theorem State.storeWord_io (s : State) (a : Nat) (v : Word) : (s.storeWord a v).io = s.io := rfl

/-! ### fatalStop -/

@[simp] theorem State.fatalStop_pc (s : State) (e : FatalError) : (s.fatalStop e).pc = s.pc := rfl
@[simp] theorem State.fatalStop_rb (s : State) (e : FatalError) : (s.fatalStop e).rb = s.rb := rfl
@[simp] theorem State.fatalStop_run (s : State) (e : FatalError) : (s.fatalStop e).run = .faulted := rfl
@[simp] theorem State.fatalStop_err (s : State) (e : FatalError) : (s.fatalStop e).err = e.cause.code := rfl
@[simp] theorem State.fatalStop_einfo (s : State) (e : FatalError) : (s.fatalStop e).einfo = e.info := rfl
@[simp] theorem State.fatalStop_eslot (s : State) (e : FatalError) : (s.fatalStop e).eslot = e.slot := rfl
@[simp] theorem State.fatalStop_dst (s : State) (e : FatalError) : (s.fatalStop e).dst = s.dst := rfl
@[simp] theorem State.fatalStop_mem (s : State) (e : FatalError) : (s.fatalStop e).mem = s.mem := rfl
@[simp] theorem State.fatalStop_ext (s : State) (e : FatalError) : (s.fatalStop e).ext = s.ext := rfl
@[simp] theorem State.fatalStop_growths (s : State) (e : FatalError) : (s.fatalStop e).growths = s.growths := rfl
@[simp] theorem State.fatalStop_params (s : State) (e : FatalError) : (s.fatalStop e).params = s.params := rfl
@[simp] theorem State.fatalStop_runEnable (s : State) (e : FatalError) : (s.fatalStop e).runEnable = s.runEnable := rfl
@[simp] theorem State.fatalStop_inAnswers (s : State) (e : FatalError) : (s.fatalStop e).inAnswers = s.inAnswers := rfl
@[simp] theorem State.fatalStop_outAnswers (s : State) (e : FatalError) : (s.fatalStop e).outAnswers = s.outAnswers := rfl
@[simp] theorem State.fatalStop_io (s : State) (e : FatalError) : (s.fatalStop e).io = s.io := rfl

/-! ### The compound updates of the channels -/

@[simp] theorem requestInput_pc (s : State) : (requestInput s).pc = s.pc := rfl
@[simp] theorem requestInput_rb (s : State) : (requestInput s).rb = s.rb := rfl
@[simp] theorem requestInput_run (s : State) : (requestInput s).run = .awaitingInput := rfl
@[simp] theorem requestInput_err (s : State) : (requestInput s).err = s.err := rfl
@[simp] theorem requestInput_einfo (s : State) : (requestInput s).einfo = s.einfo := rfl
@[simp] theorem requestInput_eslot (s : State) : (requestInput s).eslot = s.eslot := rfl
@[simp] theorem requestInput_dst (s : State) : (requestInput s).dst = s.dst := rfl
@[simp] theorem requestInput_mem (s : State) : (requestInput s).mem = s.mem := rfl
@[simp] theorem requestInput_ext (s : State) : (requestInput s).ext = s.ext := rfl
@[simp] theorem requestInput_growths (s : State) : (requestInput s).growths = s.growths := rfl
@[simp] theorem requestInput_params (s : State) : (requestInput s).params = s.params := rfl
@[simp] theorem requestInput_runEnable (s : State) : (requestInput s).runEnable = s.runEnable := rfl
@[simp] theorem requestInput_inAnswers (s : State) : (requestInput s).inAnswers = s.inAnswers := rfl
@[simp] theorem requestInput_outAnswers (s : State) : (requestInput s).outAnswers = s.outAnswers := rfl
@[simp] theorem requestInput_io (s : State) : (requestInput s).io = s.io ++ [.request] := rfl

@[simp] theorem presentWord_pc (s : State) (v : Word) : (presentWord s v).pc = s.pc := rfl
@[simp] theorem presentWord_rb (s : State) (v : Word) : (presentWord s v).rb = s.rb := rfl
@[simp] theorem presentWord_run (s : State) (v : Word) : (presentWord s v).run = s.run := rfl
@[simp] theorem presentWord_err (s : State) (v : Word) : (presentWord s v).err = s.err := rfl
@[simp] theorem presentWord_einfo (s : State) (v : Word) : (presentWord s v).einfo = s.einfo := rfl
@[simp] theorem presentWord_eslot (s : State) (v : Word) : (presentWord s v).eslot = s.eslot := rfl
@[simp] theorem presentWord_dst (s : State) (v : Word) : (presentWord s v).dst = s.dst := rfl
@[simp] theorem presentWord_mem (s : State) (v : Word) : (presentWord s v).mem = s.mem := rfl
@[simp] theorem presentWord_ext (s : State) (v : Word) : (presentWord s v).ext = s.ext := rfl
@[simp] theorem presentWord_growths (s : State) (v : Word) : (presentWord s v).growths = s.growths := rfl
@[simp] theorem presentWord_params (s : State) (v : Word) : (presentWord s v).params = s.params := rfl
@[simp] theorem presentWord_runEnable (s : State) (v : Word) : (presentWord s v).runEnable = s.runEnable := rfl
@[simp] theorem presentWord_inAnswers (s : State) (v : Word) : (presentWord s v).inAnswers = s.inAnswers := rfl
@[simp] theorem presentWord_outAnswers (s : State) (v : Word) : (presentWord s v).outAnswers = if s.params.ioErrors then s.outAnswers.tail else s.outAnswers := rfl
@[simp] theorem presentWord_io (s : State) (v : Word) : (presentWord s v).io = s.io ++ [.out v] := rfl

end Sys2Proof.Machine
end

