-- ==== Sys2Proof/Laws/Memory.lean ====
section
/-! SUPPORT. Memory: what a read gives after a write, and that every memory operation keeps the canonical form. -/

namespace Sys2Proof.Machine

open Sys2Proof

@[simp] theorem Memory.read_nil (a : Nat) : Memory.read [] a = 0 := rfl

@[simp] theorem Memory.read_cons (k : Nat) (v : Word) (m : Memory) (a : Nat) :
    Memory.read ((k, v) :: m) a = if k = a then v else Memory.read m a := rfl

theorem Memory.read_cell_append (a : Nat) (v : Word) (m : Memory) (b : Nat) (h : b ≠ a) :
    Memory.read (Memory.cell a v ++ m) b = m.read b := by
  unfold Memory.cell
  split <;> simp [Ne.symm h]

/-- A cell reads as its word, where what follows does not list its address. -/
theorem Memory.read_cell_append_same (a : Nat) (v : Word) (m : Memory) (h : m.read a = 0) :
    Memory.read (Memory.cell a v ++ m) a = v := by
  unfold Memory.cell
  split
  · simp_all [Memory.unlisted]
  · simp

/-- An address below every listed one reads as unlisted. -/
theorem Memory.read_of_lt (m : Memory) (a : Nat) (h : ∀ c ∈ m, a < c.1) : m.read a = 0 := by
  induction m with
  | nil => rfl
  | cons c rest ih =>
    obtain ⟨k, v⟩ := c
    have hk : a < k := h (k, v) (by simp)
    simp [Nat.ne_of_gt hk, ih fun c hc => h c (by simp [hc])]

/-- Memory that lists only addresses below `e` reads as 0 from `e` on (R41). -/
theorem Memory.read_of_bound (m : Memory) (e a : Nat) (h : ∀ c ∈ m, c.1 < e) (ha : e ≤ a) : m.read a = 0 := by
  induction m with
  | nil => rfl
  | cons c rest ih =>
    obtain ⟨k, v⟩ := c
    have hk : k < e := h (k, v) (by simp)
    simp [show k ≠ a by omega, ih fun c hc => h c (by simp [hc])]

theorem Memory.wf_nil : Memory.wf [] := ⟨List.Pairwise.nil, by simp⟩

theorem Memory.wf_tail {c : Nat × Word} {m : Memory} (h : Memory.wf (c :: m)) : m.wf :=
  ⟨h.1.of_cons, fun d hd => h.2 d (by simp [hd])⟩

theorem Memory.wf_head_lt {c : Nat × Word} {m : Memory} (h : Memory.wf (c :: m)) : ∀ d ∈ m, c.1 < d.1 :=
  (List.pairwise_cons.mp h.1).1

theorem Memory.wf_cell_append {a : Nat} {v : Word} {m : Memory} (h : m.wf) (ha : a < Config.addrLimit)
    (hlt : ∀ c ∈ m, a < c.1) : Memory.wf (Memory.cell a v ++ m) := by
  unfold Memory.cell
  split
  · simpa using h
  · refine ⟨List.pairwise_cons.mpr ⟨hlt, h.1⟩, ?_⟩
    rintro c hc
    obtain rfl | hc := List.mem_cons.mp hc
    · exact ⟨by assumption, ha⟩
    · exact h.2 c hc

/-- Q4 for addresses that are not written: a write leaves every other address alone. -/
@[simp] theorem Memory.read_write_other (m : Memory) (a : Nat) (v : Word) (b : Nat) (h : b ≠ a) :
    (m.write a v).read b = m.read b := by
  induction m with
  | nil => simpa [Memory.write] using Memory.read_cell_append a v [] b h
  | cons c rest ih =>
    obtain ⟨k, u⟩ := c
    unfold Memory.write
    split
    · exact Memory.read_cell_append a v _ b h
    · split
      · subst_vars
        rw [Memory.read_cell_append _ v _ b h]
        simp [Ne.symm h]
      · simp [ih]

/-- Q4 for the address that is written, in a memory of canonical form. -/
theorem Memory.read_write_same (m : Memory) (a : Nat) (v : Word) (h : m.wf) : (m.write a v).read a = v := by
  induction m with
  | nil => simpa [Memory.write] using Memory.read_cell_append_same a v [] rfl
  | cons c rest ih =>
    obtain ⟨k, u⟩ := c
    have hlt := Memory.wf_head_lt h
    unfold Memory.write
    split
    · rename_i hak
      apply Memory.read_cell_append_same
      apply Memory.read_of_lt
      intro d hd
      obtain rfl | hd := List.mem_cons.mp hd
      · exact hak
      · exact Nat.lt_trans hak (hlt d hd)
    · split
      · subst_vars
        exact Memory.read_cell_append_same _ v rest (Memory.read_of_lt rest _ hlt)
      · rename_i hne
        simp [Ne.symm hne, ih (Memory.wf_tail h)]

/-- Every cell of a written memory is the written one or was there. -/
theorem Memory.mem_write {m : Memory} {a : Nat} {v : Word} {c : Nat × Word} (h : c ∈ m.write a v) :
    c = (a, v) ∧ v ≠ 0 ∨ c ∈ m := by
  have hcell : ∀ {d : Nat × Word}, d ∈ Memory.cell a v → d = (a, v) ∧ v ≠ 0 := by
    intro d hd
    unfold Memory.cell at hd
    split at hd
    · simp at hd
    · simp_all [Memory.unlisted]
  induction m with
  | nil => exact .inl (hcell h)
  | cons d rest ih =>
    obtain ⟨k, u⟩ := d
    unfold Memory.write at h
    split at h
    · obtain h | h := List.mem_append.mp h
      · exact .inl (hcell h)
      · exact .inr h
    · split at h
      · obtain h | h := List.mem_append.mp h
        · exact .inl (hcell h)
        · exact .inr (by simp [h])
      · obtain rfl | h := List.mem_cons.mp h
        · exact .inr (by simp)
        · obtain h | h := ih h
          · exact .inl h
          · exact .inr (by simp [h])

/-- A write keeps the canonical form. -/
theorem Memory.write_wf {m : Memory} {a : Nat} (v : Word) (h : m.wf) (ha : a < Config.addrLimit) :
    (m.write a v).wf := by
  induction m with
  | nil => simpa [Memory.write] using Memory.wf_cell_append (v := v) Memory.wf_nil ha (by simp)
  | cons c rest ih =>
    obtain ⟨k, u⟩ := c
    have hlt := Memory.wf_head_lt h
    unfold Memory.write
    split
    · rename_i hak
      refine Memory.wf_cell_append h ha fun d hd => ?_
      obtain rfl | hd := List.mem_cons.mp hd
      · exact hak
      · exact Nat.lt_trans hak (hlt d hd)
    · split
      · subst_vars
        exact Memory.wf_cell_append (Memory.wf_tail h) ha hlt
      · have ih := ih (Memory.wf_tail h)
        refine ⟨List.pairwise_cons.mpr ⟨fun d hd => ?_, ih.1⟩, fun d hd => ?_⟩
        · obtain ⟨rfl, -⟩ | hd := Memory.mem_write hd
          · simp only
            omega
          · exact hlt d hd
        · obtain rfl | hd := List.mem_cons.mp hd
          · exact h.2 _ (by simp)
          · exact ih.2 d hd

/-- An image lists only addresses from its base on, as many as it has words. -/
theorem Memory.mem_ofImage {base : Nat} {image : List Word} {c : Nat × Word}
    (h : c ∈ Memory.ofImage base image) : base ≤ c.1 ∧ c.1 < base + image.length := by
  induction image generalizing base with
  | nil => simp [Memory.ofImage] at h
  | cons w rest ih =>
    unfold Memory.ofImage at h
    split at h
    · obtain h | h := List.mem_append.mp h
      · unfold Memory.cell at h
        split at h
        · simp at h
        · simp_all
      · have := ih h
        simp only [List.length_cons]
        omega
    · simp at h

/-- An image load gives the canonical form. -/
theorem Memory.ofImage_wf (base : Nat) (image : List Word) : (Memory.ofImage base image).wf := by
  induction image generalizing base with
  | nil => exact Memory.wf_nil
  | cons w rest ih =>
    unfold Memory.ofImage
    split
    · rename_i hb
      exact Memory.wf_cell_append (ih _) hb fun c hc => (Memory.mem_ofImage hc).1
    · exact Memory.wf_nil

/-- What an image load leaves below its base. -/
theorem Memory.read_ofImage_below (base : Nat) (image : List Word) (a : Nat) (h : a < base) :
    (Memory.ofImage base image).read a = 0 :=
  Memory.read_of_lt _ _ fun _ hc => Nat.lt_of_lt_of_le h (Memory.mem_ofImage hc).1

/-- What an image load leaves at every address (R35). -/
theorem Memory.read_ofImage {base a : Nat} (image : List Word) (ha : a < Config.addrLimit) (hb : base ≤ a) :
    (Memory.ofImage base image).read a = image.getD (a - base) 0 := by
  induction image generalizing base with
  | nil => rfl
  | cons w rest ih =>
    unfold Memory.ofImage
    rw [if_pos (by omega)]
    by_cases h : a = base
    · subst h
      rw [Memory.read_cell_append_same _ _ _ (Memory.read_ofImage_below _ _ _ (by omega))]
      simp
    · obtain ⟨n, hn⟩ : ∃ n, a - base = n + 1 := ⟨a - base - 1, by omega⟩
      rw [Memory.read_cell_append _ _ _ _ h, ih (by omega), hn, show a - (base + 1) = n by omega]
      rfl

/-- Placing words keeps the canonical form. -/
theorem Memory.place_wf {m : Memory} (a : Nat) (words : List Word) (h : m.wf) : (m.place a words).wf := by
  induction words generalizing m a with
  | nil => exact h
  | cons w rest ih =>
    unfold Memory.place
    split
    · rename_i ha
      exact ih _ (Memory.write_wf w h ha)
    · exact h

end Sys2Proof.Machine
end

