-- ==== Sys2Proof/Laws/Word.lean ====
section
/-! SUPPORT. Words: `wrap64` against the operations of bit vectors, and what a non-negative word is as an address. -/

namespace Sys2Proof

theorem wrap64_toInt_self (w : Word) : wrap64 w.toInt = w := BitVec.ofInt_toInt

theorem wrap64_add (a b : Word) : wrap64 (a.toInt + b.toInt) = a + b := by
  simp [wrap64, BitVec.ofInt_add, BitVec.ofInt_toInt]

theorem wrap64_mul (a b : Word) : wrap64 (a.toInt * b.toInt) = a * b := by
  simp [wrap64, BitVec.ofInt_mul, BitVec.ofInt_toInt]

/-- An integer in the range of R5 keeps its value. -/
theorem toInt_wrap64_of_range {x : Int} (h1 : -9223372036854775808 ≤ x) (h2 : x < 9223372036854775808) :
    (wrap64 x).toInt = x := by
  rw [wrap64, BitVec.toInt_ofInt, Int.bmod_eq_of_le] <;> omega

theorem word_toInt_bounds (w : Word) : -9223372036854775808 ≤ w.toInt ∧ w.toInt < 9223372036854775808 := by
  have h1 := BitVec.le_toInt w
  have h2 := BitVec.toInt_lt (x := w)
  omega

theorem toNat_eq_of_nonneg {w : Word} (h : 0 ≤ w.toInt) : (w.toNat : Int) = w.toInt := by
  have := BitVec.toInt_eq_toNat_cond w
  have := w.isLt
  split at * <;> omega

/-- A non-negative word is an address of R28. -/
theorem toNat_lt_of_nonneg {w : Word} (h : 0 ≤ w.toInt) : w.toNat < Config.addrLimit := by
  have h1 := toNat_eq_of_nonneg h
  have h2 := (word_toInt_bounds w).2
  unfold Config.addrLimit
  omega

end Sys2Proof
end

