-- ==== Sys2Proof/Laws/Decode.lean ====
section
/-! SUPPORT. The tables of the decoder, read both ways, and the range of the canonical words. -/

namespace Sys2Proof

@[simp] theorem Mode.ofDigit_digit (m : Mode) : Mode.ofDigit m.digit = some m := by cases m <;> rfl

theorem Mode.digit_le (m : Mode) : m.digit ≤ 2 := by cases m <;> decide

@[simp] theorem Opcode.ofCode_code (op : Opcode) : Opcode.ofCode op.code = some op := by cases op <;> rfl

theorem Opcode.code_range (op : Opcode) : 1 ≤ op.code ∧ op.code ≤ 99 := by cases op <;> decide

theorem Mode.ofDigit_eq_some {d : Nat} {m : Mode} (h : Mode.ofDigit d = some m) : d = m.digit := by
  unfold Mode.ofDigit at h
  split at h <;> simp_all <;> subst h <;> rfl

theorem Opcode.ofCode_eq_some {c : Nat} {op : Opcode} (h : Opcode.ofCode c = some op) : c = op.code := by
  unfold Opcode.ofCode at h
  split at h <;> simp_all <;> subst h <;> rfl

@[simp] theorem Opcode.opcode_instr (op : Opcode) (m1 m2 m3 : Mode) : (op.instr m1 m2 m3).opcode = op := by
  cases op <;> rfl

@[simp] theorem Opcode.modes_instr (op : Opcode) (m1 m2 m3 : Mode) :
    (op.instr m1 m2 m3).modes = (m1, m2, m3) := by
  cases op <;> rfl

theorem Instr.eq_instr (i : Instr) : i = i.opcode.instr i.modes.1 i.modes.2.1 i.modes.2.2 := by
  cases i <;> rfl

theorem decodeMode_eq_ok {k : Slot} {d : Nat} {m : Mode} : decodeMode k d = .ok m ↔ Mode.ofDigit d = some m := by
  unfold decodeMode
  split <;> simp_all

/-- Canonical words lie between 1 and 22299 (R71). -/
theorem encodeNat_range (i : Instr) : 1 ≤ encodeNat i ∧ encodeNat i ≤ 22299 := by
  have h0 := i.opcode.code_range
  have h1 := i.modes.1.digit_le
  have h2 := i.modes.2.1.digit_le
  have h3 := i.modes.2.2.digit_le
  unfold encodeNat
  omega

end Sys2Proof
end

