-- ==== Sys2Proof/Laws/Ops.lean ====
section
/-! SUPPORT. Everything each shared operation can do, said once: load, store, the settling of an action, fetch. -/

namespace Sys2Proof.Machine

open Sys2Proof

theorem load_of_neg {m : Memory} {k : Slot} {a : Word} (h : a.toInt < 0) :
    load m k a = .error (negativeAddress a k) := if_pos h

theorem load_of_nonneg {m : Memory} {k : Slot} {a : Word} (h : 0 ≤ a.toInt) :
    load m k a = .ok (m.read a.toNat) := if_neg (by omega)

/-- R41, the successful case. -/
theorem load_eq_ok {m : Memory} {k : Slot} {a v : Word} :
    load m k a = .ok v ↔ 0 ≤ a.toInt ∧ m.read a.toNat = v := by
  by_cases h : a.toInt < 0
  · simp [load_of_neg h, h]
  · simp [load_of_nonneg (Int.not_lt.mp h), Int.not_lt.mp h]

/-- R41, the failing case. -/
theorem load_eq_error {m : Memory} {k : Slot} {a : Word} {e : FatalError} :
    load m k a = .error e ↔ a.toInt < 0 ∧ e = negativeAddress a k := by
  by_cases h : a.toInt < 0
  · simp [load_of_neg h, h, eq_comm]
  · simp [load_of_nonneg (Int.not_lt.mp h), h]

/-- R42 and R46, the successful case. -/
theorem memWrite_eq_ok {s t : State} {k : Slot} {a v : Word} :
    memWrite s k a v = .ok t ↔
      0 ≤ a.toInt ∧ Params.capAllows s.params a.toNat = true ∧ t = s.storeWord a.toNat v := by
  unfold memWrite
  split
  · rename_i h
    simp [h]
  · rename_i h
    split
    · rename_i hc
      simp [hc, Int.not_lt.mp h, eq_comm]
    · rename_i hc
      simp [hc]

/-- A store never shrinks the extent (R42). -/
theorem State.ext_le_storeWord (s : State) (a : Nat) (v : Word) : s.ext ≤ (s.storeWord a v).ext := by
  simp only [State.storeWord_ext]
  split <;> omega

/-- A store leaves its address below the extent (R42). -/
theorem State.lt_ext_storeWord (s : State) (a : Nat) (v : Word) : a < (s.storeWord a v).ext := by
  simp only [State.storeWord_ext]
  split <;> omega

/-- Only a store at or beyond the extent grows it (R42). -/
theorem State.ext_storeWord_of_lt {s : State} {a : Nat} (v : Word) (h : a < s.ext) :
    (s.storeWord a v).ext = s.ext := by
  simp [h]

/-- What settling answers (R10): all the writes, the fatal stop from the state before, or no step. -/
theorem settle_eq_next {s t : State} {r : Except Stop State} :
    settle s r = .next t ↔ r = .ok t ∨ ∃ e, r = .error (.fatal e) ∧ t = s.fatalStop e := by
  rcases r with (e | f) | u
  · simp [settle, raise, eq_comm]
  · simp [settle]
  · simp [settle]

@[simp] theorem raise_eq (s : State) (e : FatalError) : raise s e = .next (s.fatalStop e) := rfl

/-- The ERR code of a raised error is never 0 (R151). -/
theorem Cause.code_ne_zero (c : Cause) : c.code ≠ 0 := by cases c <;> decide

/-- R81 and R63, the successful case. -/
theorem fetchInstr_eq_ok {s : State} {i : Instr} :
    fetchInstr s = .ok i ↔
      0 ≤ s.pc.toInt ∧ decode s.params.strictUpperDigits (s.mem.read s.pc.toNat) = .ok i := by
  unfold fetchInstr
  by_cases h : s.pc.toInt < 0
  · simp [load_of_neg h, h, bind, Except.bind]
  · have h' := Int.not_lt.mp h
    simp only [load_of_nonneg h', bind, Except.bind, h', true_and]
    split
    · rename_i hd
      simp [hd, pure, Except.pure]
    · rename_i hd
      simp [hd, throw, throwThe, MonadExceptOf.throw]

/-- A fetch or decode error is never a channel error (R151). -/
theorem fetchInstr_error_cause {s : State} {e : FatalError} (h : fetchInstr s = .error e) : e.cause ≠ .ioError := by
  unfold fetchInstr at h
  by_cases hp : s.pc.toInt < 0
  · simp only [load_of_neg hp, bind, Except.bind] at h
    cases h
    simp [negativeAddress]
  · simp only [load_of_nonneg (Int.not_lt.mp hp), bind, Except.bind] at h
    split at h
    · cases h
    · rename_i d _
      cases h
      cases d <;> simp [decodeFatal]

/-- Fetch reads PC, memory and the parameters only. -/
theorem fetchInstr_congr {s t : State} (hp : t.pc = s.pc) (hm : t.mem = s.mem) (hs : t.params = s.params) :
    fetchInstr t = fetchInstr s := by
  simp [fetchInstr, hp, hm, hs]

end Sys2Proof.Machine
end

