-- ==== Sys2Proof/Laws/Operands.lean ====
section
/-! SUPPORT. What evaluating a parameter can do. -/

namespace Sys2Proof.Machine

open Sys2Proof

/-- Parameters depend on PC, RB and memory only. -/
theorem paramWord_congr {s t : State} (k : Slot) (hp : t.pc = s.pc) (hm : t.mem = s.mem) :
    paramWord t k = paramWord s k := by
  simp [paramWord, hp, hm]

theorem readOperand_congr {s t : State} (k : Slot) (m : Mode) (hp : t.pc = s.pc) (hr : t.rb = s.rb)
    (hm : t.mem = s.mem) : readOperand t k m = readOperand s k m := by
  simp [readOperand, relativeAddr, paramWord_congr k hp hm, hr, hm]

theorem writeAddress_congr {s t : State} (k : Slot) (m : Mode) (hp : t.pc = s.pc) (hr : t.rb = s.rb)
    (hm : t.mem = s.mem) : writeAddress t k m = writeAddress s k m := by
  simp [writeAddress, relativeAddr, paramWord_congr k hp hm, hr]

theorem paramWord_eq_ok {s : State} {k : Slot} {p : Word} :
    paramWord s k = .ok p ↔ 0 ≤ (wrap64 (s.pc.toInt + k.val)).toInt ∧
      s.mem.read (wrap64 (s.pc.toInt + k.val)).toNat = p := load_eq_ok

theorem checkDest_eq_ok {k : Slot} {ea d : Word} : checkDest k ea = .ok d ↔ 0 ≤ ea.toInt ∧ d = ea := by
  unfold checkDest
  split
  · rename_i h
    simp [throw, throwThe, MonadExceptOf.throw, h]
  · rename_i h
    simp [pure, Except.pure, Int.not_lt.mp h, eq_comm]

/-- R85, the successful case: the parameter was fetched and the destination is an address. -/
theorem writeAddress_eq_ok {s : State} {k : Slot} {m : Mode} {d : Word} :
    writeAddress s k m = .ok d ↔ ∃ p, paramWord s k = .ok p ∧ 0 ≤ d.toInt ∧
      (m = .position ∧ d = p ∨ m = .relative ∧ d = relativeAddr s p) := by
  unfold writeAddress
  rcases hp : paramWord s k with e | p
  · simp [bind, Except.bind]
  · cases m <;>
      simp [bind, Except.bind, checkDest_eq_ok, throw, throwThe, MonadExceptOf.throw] <;>
      rintro rfl <;> rfl

/-- R84, the successful case: the parameter was fetched. -/
theorem readOperand_param {s : State} {k : Slot} {m : Mode} {a : Word} (h : readOperand s k m = .ok a) :
    ∃ p, paramWord s k = .ok p := by
  unfold readOperand at h
  rcases hp : paramWord s k with e | p
  · simp [hp, bind, Except.bind] at h
  · exact ⟨p, rfl⟩

theorem load_error_cause {m : Memory} {k : Slot} {a : Word} {e : FatalError} (h : load m k a = .error e) :
    e.cause = .negativeAddress := by
  rw [(load_eq_error.mp h).2]
  rfl

/-- A read parameter raises NegativeAddress only (R84). -/
theorem readOperand_error_cause {s : State} {k : Slot} {m : Mode} {e : FatalError}
    (h : readOperand s k m = .error e) : e.cause = .negativeAddress := by
  unfold readOperand at h
  rcases hp : paramWord s k with e' | p
  · simp only [hp, bind, Except.bind] at h
    cases h
    exact load_error_cause hp
  · simp only [hp, bind, Except.bind] at h
    cases m with
    | position => exact load_error_cause h
    | immediate => cases h
    | relative => exact load_error_cause h

theorem checkDest_error_cause {k : Slot} {ea : Word} {e : FatalError} (h : checkDest k ea = .error e) :
    e.cause = .negativeAddress := by
  unfold checkDest at h
  split at h
  · cases h
    rfl
  · cases h

/-- A write parameter raises NegativeAddress or, under IMMEDIATE, ImmediateWrite (R85). -/
theorem writeAddress_error_cause {s : State} {k : Slot} {m : Mode} {e : FatalError}
    (h : writeAddress s k m = .error e) : e.cause = .negativeAddress ∨ e.cause = .immediateWrite := by
  unfold writeAddress at h
  rcases hp : paramWord s k with e' | p
  · simp only [hp, bind, Except.bind] at h
    cases h
    exact .inl (load_error_cause hp)
  · simp only [hp, bind, Except.bind] at h
    cases m with
    | position => exact .inl (checkDest_error_cause h)
    | immediate =>
      cases h
      exact .inr rfl
    | relative => exact .inl (checkDest_error_cause h)

/-- Both operands of RR, the successful case (R86). -/
theorem operandsRR_eq_ok {s : State} {m1 m2 : Mode} {a b : Word} :
    operandsRR s m1 m2 = .ok (a, b) ↔ readOperand s 1 m1 = .ok a ∧ readOperand s 2 m2 = .ok b := by
  unfold operandsRR
  rcases readOperand s 1 m1 with e | x <;> rcases readOperand s 2 m2 with e' | y <;>
    simp [bind, Except.bind, pure, Except.pure]

/-- The operands of RRW, the successful case (R86, R100). -/
theorem operandsRRW_eq_ok {s : State} {m1 m2 m3 : Mode} {a b d : Word} :
    operandsRRW s m1 m2 m3 = .ok (a, b, d) ↔
      readOperand s 1 m1 = .ok a ∧ readOperand s 2 m2 = .ok b ∧ writeAddress s 3 m3 = .ok d := by
  unfold operandsRRW
  rcases readOperand s 1 m1 with e | x <;> rcases readOperand s 2 m2 with e' | y <;>
    rcases writeAddress s 3 m3 with e'' | z <;> simp [bind, Except.bind, pure, Except.pure]

/-- An error of RR is one of its parameters' errors, the lowest slot first (R86). -/
theorem operandsRR_eq_error {s : State} {m1 m2 : Mode} {e : FatalError} :
    operandsRR s m1 m2 = .error e ↔ readOperand s 1 m1 = .error e ∨
      (∃ a, readOperand s 1 m1 = .ok a) ∧ readOperand s 2 m2 = .error e := by
  unfold operandsRR
  rcases readOperand s 1 m1 with e1 | x <;> rcases readOperand s 2 m2 with e2 | y <;>
    simp [bind, Except.bind, pure, Except.pure]

/-- An error of RRW is one of its parameters' errors, the lowest slot first (R86). -/
theorem operandsRRW_eq_error {s : State} {m1 m2 m3 : Mode} {e : FatalError} :
    operandsRRW s m1 m2 m3 = .error e ↔ readOperand s 1 m1 = .error e ∨
      (∃ a, readOperand s 1 m1 = .ok a) ∧ readOperand s 2 m2 = .error e ∨
      (∃ a, readOperand s 1 m1 = .ok a) ∧ (∃ b, readOperand s 2 m2 = .ok b) ∧ writeAddress s 3 m3 = .error e := by
  unfold operandsRRW
  rcases readOperand s 1 m1 with e1 | x <;> rcases readOperand s 2 m2 with e2 | y <;>
    rcases writeAddress s 3 m3 with e3 | z <;> simp [bind, Except.bind, pure, Except.pure]

theorem operandsRR_error_cause {s : State} {m1 m2 : Mode} {e : FatalError}
    (h : operandsRR s m1 m2 = .error e) : e.cause ≠ .ioError := by
  obtain h | ⟨-, h⟩ := operandsRR_eq_error.mp h <;> simp [readOperand_error_cause h]

theorem operandsRRW_error_cause {s : State} {m1 m2 m3 : Mode} {e : FatalError}
    (h : operandsRRW s m1 m2 m3 = .error e) : e.cause ≠ .ioError := by
  obtain h | ⟨-, h⟩ | ⟨-, -, h⟩ := operandsRRW_eq_error.mp h
  · simp [readOperand_error_cause h]
  · simp [readOperand_error_cause h]
  · obtain h | h := writeAddress_error_cause h <;> simp [h]

end Sys2Proof.Machine
end

