-- ==== Sys2Proof/Laws/Exec.lean ====
section
/-! SUPPORT. What each shape of instruction can answer, said once: one inversion lemma per shape. -/

namespace Sys2Proof.Machine

open Sys2Proof

/-- RRW (R100): the fatal stop, or the store and PC + 4. -/
theorem execRRW_cases {f : Word → Word → Word} {m1 m2 m3 : Mode} {s t : State}
    (h : execRRW f m1 m2 m3 s = .next t) :
    (∃ e, operandsRRW s m1 m2 m3 = .error e ∧ t = s.fatalStop e) ∨
    (∃ a b d, readOperand s 1 m1 = .ok a ∧ readOperand s 2 m2 = .ok b ∧ writeAddress s 3 m3 = .ok d ∧
      0 ≤ d.toInt ∧ Params.capAllows s.params d.toNat = true ∧
      t = (s.storeWord d.toNat (f a b)).advance 4) := by
  unfold execRRW at h
  rcases ho : operandsRRW s m1 m2 m3 with e | ⟨a, b, d⟩
  · exact .inl ⟨e, rfl, by simpa [ho, eq_comm] using h⟩
  · have hw := operandsRRW_eq_ok.mp ho
    obtain ⟨p, -, hd, -⟩ := writeAddress_eq_ok.mp hw.2.2
    simp only [ho, settle_eq_next] at h
    refine .inr ⟨a, b, d, hw.1, hw.2.1, hw.2.2, hd, ?_⟩
    have hnot : ¬ d.toInt < 0 := by omega
    unfold memWrite at h
    rw [if_neg hnot] at h
    split at h
    · rename_i hc
      exact ⟨hc, by simpa [Except.map, eq_comm] using h⟩
    · simp [Except.map] at h

/-- RRW completes (R100) where its operands can be evaluated and `MEM_CAP` leaves room. -/
theorem execRRW_of_ok {f : Word → Word → Word} {m1 m2 m3 : Mode} {s : State} {a b d : Word}
    (h1 : readOperand s 1 m1 = .ok a) (h2 : readOperand s 2 m2 = .ok b) (h3 : writeAddress s 3 m3 = .ok d)
    (hc : Params.capAllows s.params d.toNat = true) :
    execRRW f m1 m2 m3 s = .next ((s.storeWord d.toNat (f a b)).advance 4) := by
  obtain ⟨p, -, hd, -⟩ := writeAddress_eq_ok.mp h3
  simp [execRRW, operandsRRW_eq_ok.mpr ⟨h1, h2, h3⟩, memWrite_eq_ok.mpr ⟨hd, hc, rfl⟩, Except.map, settle]

/-- JNZ and JZ (R130 to R132): an operand raises, a taken jump raises, a taken jump, or PC + 3. -/
theorem execJump_cases {test : Word → Bool} {m1 m2 : Mode} {s t : State} (h : execJump test m1 m2 s = .next t) :
    (∃ e, operandsRR s m1 m2 = .error e ∧ t = s.fatalStop e) ∨
    (∃ a b, readOperand s 1 m1 = .ok a ∧ readOperand s 2 m2 = .ok b ∧
      (test a = true ∧ b.toInt < 0 ∧ t = s.fatalStop (negativeAddress b 2) ∨
       test a = true ∧ 0 ≤ b.toInt ∧ t = s.setPc b ∨
       test a = false ∧ t = s.advance 3)) := by
  unfold execJump at h
  rcases ho : operandsRR s m1 m2 with e | ⟨a, b⟩
  · exact .inl ⟨e, rfl, by simpa [ho, eq_comm] using h⟩
  · have hw := operandsRR_eq_ok.mp ho
    simp only [ho] at h
    refine .inr ⟨a, b, hw.1, hw.2, ?_⟩
    split at h
    · rename_i ht
      unfold jumpTo at h
      split at h
      · rename_i hb
        exact .inl ⟨ht, hb, by simpa [eq_comm] using h⟩
      · rename_i hb
        exact .inr (.inl ⟨ht, Int.not_lt.mp hb, by simpa [eq_comm] using h⟩)
    · rename_i ht
      exact .inr (.inr ⟨by simpa using ht, by simpa [eq_comm] using h⟩)

/-- OUTPUT (R117, R119): the operand raises, the transaction fails, or the word is taken and PC + 2. -/
theorem execOutput_cases {m1 : Mode} {s t : State} (h : execOutput m1 s = .next t) :
    (∃ e, readOperand s 1 m1 = .error e ∧ t = s.fatalStop e) ∨
    (∃ a, readOperand s 1 m1 = .ok a ∧
      (outputFails s = true ∧ t = (presentWord s a).fatalStop ioFatal ∨
       outputFails s = false ∧ t = (presentWord s a).advance 2)) := by
  unfold execOutput at h
  rcases ho : readOperand s 1 m1 with e | a
  · exact .inl ⟨e, rfl, by simpa [ho, eq_comm] using h⟩
  · simp only [ho] at h
    refine .inr ⟨a, rfl, ?_⟩
    split at h
    · rename_i hf
      exact .inl ⟨hf, by simpa [eq_comm] using h⟩
    · rename_i hf
      exact .inr ⟨by simpa using hf, by simpa [eq_comm] using h⟩

/-- SET_RB (R140): the operand raises, or RB and PC + 2. -/
theorem execSetRb_cases {m1 : Mode} {s t : State} (h : execSetRb m1 s = .next t) :
    (∃ e, readOperand s 1 m1 = .error e ∧ t = s.fatalStop e) ∨
    (∃ a, readOperand s 1 m1 = .ok a ∧ t = (s.setRb (wrap64 (s.rb.toInt + a.toInt))).advance 2) := by
  unfold execSetRb at h
  rcases ho : readOperand s 1 m1 with e | a
  · exact .inl ⟨e, rfl, by simpa [ho, eq_comm] using h⟩
  · exact .inr ⟨a, rfl, by simpa [ho, eq_comm] using h⟩

/-- INPUT, request step (R111): the destination raises, or the request, with DST latched under the early check. -/
theorem execInput_cases {m1 : Mode} {s t : State} (h : execInput m1 s = .next t) :
    (s.params.inputFaultBeforeRequest = true ∧ ∃ e, writeAddress s 1 m1 = .error e ∧ t = s.fatalStop e) ∨
    (s.params.inputFaultBeforeRequest = true ∧ ∃ d, writeAddress s 1 m1 = .ok d ∧ t = requestInput (s.setDst d)) ∨
    (s.params.inputFaultBeforeRequest = false ∧ t = requestInput s) := by
  unfold execInput at h
  split at h
  · rename_i hb
    rcases ho : writeAddress s 1 m1 with e | d
    · exact .inl ⟨hb, e, rfl, by simpa [ho, eq_comm] using h⟩
    · exact .inr (.inl ⟨hb, d, rfl, by simpa [ho, eq_comm] using h⟩)
  · rename_i hb
    exact .inr (.inr ⟨by simpa using hb, by simpa [eq_comm] using h⟩)

/-- The test of a jump against the value it tests (R130, R131). -/
@[simp] theorem isNonZero_eq (a : Word) : isNonZero a = true ↔ a.toInt ≠ 0 := by simp [isNonZero]

@[simp] theorem isZero_eq (a : Word) : isZero a = true ↔ a.toInt = 0 := by simp [isZero]

/-- What a completed instruction did, by shape: the effects of R101 to R104, R111, R117, R130, R131, R140, R141. -/
def Completed (i : Instr) (s t : State) : Prop :=
  (i.isRRW = true ∧ ∃ d v, writeAddress s 3 i.modes.2.2 = .ok d ∧ 0 ≤ d.toInt ∧
    t = (s.storeWord d.toNat v).advance 4) ∨
  (∃ m1 m2 m3 a b, readOperand s 1 m1 = .ok a ∧ readOperand s 2 m2 = .ok b ∧
    (i = .jnz m1 m2 m3 ∧ (a.toInt ≠ 0 ∧ 0 ≤ b.toInt ∧ t = s.setPc b ∨ a.toInt = 0 ∧ t = s.advance 3) ∨
     i = .jz m1 m2 m3 ∧ (a.toInt = 0 ∧ 0 ≤ b.toInt ∧ t = s.setPc b ∨ a.toInt ≠ 0 ∧ t = s.advance 3))) ∨
  (∃ m1 m2 m3 a, i = .output m1 m2 m3 ∧ readOperand s 1 m1 = .ok a ∧ t = (presentWord s a).advance 2) ∨
  (∃ m1 m2 m3 a, i = .setRb m1 m2 m3 ∧ readOperand s 1 m1 = .ok a ∧
    t = (s.setRb (wrap64 (s.rb.toInt + a.toInt))).advance 2) ∨
  (∃ m1 m2 m3, i = .input m1 m2 m3 ∧
    (s.params.inputFaultBeforeRequest = true ∧ (∃ d, writeAddress s 1 m1 = .ok d ∧ t = requestInput (s.setDst d)) ∨
     s.params.inputFaultBeforeRequest = false ∧ t = requestInput s)) ∨
  (∃ m1 m2 m3, i = .halt m1 m2 m3 ∧ t = s.setRun .halted)

/-- Everything `exec` can do that has a next state: a fatal stop from the same state with a cause of fetch, decode or
addressing; a failed output transaction; or the instruction's own effect. -/
theorem exec_cases {i : Instr} {s t : State} (h : exec i s = .next t) :
    (∃ e, e.cause ≠ .ioError ∧ t = s.fatalStop e) ∨
    (∃ m1 m2 m3 a, i = .output m1 m2 m3 ∧ readOperand s 1 m1 = .ok a ∧ outputFails s = true ∧
      t = (presentWord s a).fatalStop ioFatal) ∨
    Completed i s t := by
  have rrw : ∀ {f m1 m2 m3}, i.isRRW = true → i.modes.2.2 = m3 → execRRW f m1 m2 m3 s = .next t →
      (∃ e, e.cause ≠ .ioError ∧ t = s.fatalStop e) ∨ Completed i s t := by
    intro f m1 m2 m3 hi hm h
    obtain ⟨e, he, ht⟩ | ⟨a, b, d, -, -, h3, hd, -, ht⟩ := execRRW_cases h
    · exact .inl ⟨e, operandsRRW_error_cause he, ht⟩
    · exact .inr (.inl ⟨hi, d, f a b, hm ▸ h3, hd, ht⟩)
  cases i with
  | add m1 m2 m3 => obtain h | h := rrw rfl rfl h <;> simp [h]
  | mul m1 m2 m3 => obtain h | h := rrw rfl rfl h <;> simp [h]
  | lt m1 m2 m3 => obtain h | h := rrw rfl rfl h <;> simp [h]
  | eq m1 m2 m3 => obtain h | h := rrw rfl rfl h <;> simp [h]
  | jnz m1 m2 m3 =>
    obtain ⟨e, he, ht⟩ | ⟨a, b, h1, h2, ht⟩ := execJump_cases (test := isNonZero) h
    · exact .inl ⟨e, operandsRR_error_cause he, ht⟩
    · obtain ⟨-, -, ht⟩ | ⟨ha, hb, ht⟩ | ⟨ha, ht⟩ := ht
      · exact .inl ⟨_, by simp [negativeAddress], ht⟩
      · exact .inr (.inr (.inr (.inl ⟨m1, m2, m3, a, b, h1, h2, .inl ⟨rfl, .inl ⟨by simpa using ha, hb, ht⟩⟩⟩)))
      · refine .inr (.inr (.inr (.inl ⟨m1, m2, m3, a, b, h1, h2, .inl ⟨rfl, .inr ⟨?_, ht⟩⟩⟩)))
        simpa [isNonZero] using ha
  | jz m1 m2 m3 =>
    obtain ⟨e, he, ht⟩ | ⟨a, b, h1, h2, ht⟩ := execJump_cases (test := isZero) h
    · exact .inl ⟨e, operandsRR_error_cause he, ht⟩
    · obtain ⟨-, -, ht⟩ | ⟨ha, hb, ht⟩ | ⟨ha, ht⟩ := ht
      · exact .inl ⟨_, by simp [negativeAddress], ht⟩
      · exact .inr (.inr (.inr (.inl ⟨m1, m2, m3, a, b, h1, h2, .inr ⟨rfl, .inl ⟨by simpa using ha, hb, ht⟩⟩⟩)))
      · refine .inr (.inr (.inr (.inl ⟨m1, m2, m3, a, b, h1, h2, .inr ⟨rfl, .inr ⟨?_, ht⟩⟩⟩)))
        simpa [isZero] using ha
  | output m1 m2 m3 =>
    obtain ⟨e, he, ht⟩ | ⟨a, h1, ⟨hf, ht⟩ | ⟨-, ht⟩⟩ := execOutput_cases h
    · exact .inl ⟨e, by simp [readOperand_error_cause he], ht⟩
    · exact .inr (.inl ⟨m1, m2, m3, a, rfl, h1, hf, ht⟩)
    · exact .inr (.inr (.inr (.inr (.inl ⟨m1, m2, m3, a, rfl, h1, ht⟩))))
  | setRb m1 m2 m3 =>
    obtain ⟨e, he, ht⟩ | ⟨a, h1, ht⟩ := execSetRb_cases h
    · exact .inl ⟨e, by simp [readOperand_error_cause he], ht⟩
    · exact .inr (.inr (.inr (.inr (.inr (.inl ⟨m1, m2, m3, a, rfl, h1, ht⟩)))))
  | input m1 m2 m3 =>
    obtain ⟨-, e, he, ht⟩ | ⟨hb, hd⟩ | ⟨hb, ht⟩ := execInput_cases h
    · refine .inl ⟨e, ?_, ht⟩
      obtain h | h := writeAddress_error_cause he <;> simp [h]
    · exact .inr (.inr (.inr (.inr (.inr (.inr (.inl ⟨m1, m2, m3, rfl, .inl ⟨hb, hd⟩⟩))))))
    · exact .inr (.inr (.inr (.inr (.inr (.inr (.inl ⟨m1, m2, m3, rfl, .inr ⟨hb, ht⟩⟩))))))
  | halt m1 m2 m3 =>
    refine .inr (.inr (.inr (.inr (.inr (.inr (.inr ⟨m1, m2, m3, rfl, ?_⟩))))))
    simpa [exec, execHalt, eq_comm] using h

/-- INPUT, the store of the completion step (R112): the store raises, or it lands, PC + 2 and READY. -/
theorem settle_storeInput_cases {s0 s t : State} {v : Word} (h : settle s0 (storeInput s v) = .next t) :
    (s.dst.toInt < 0 ∧ t = s0.fatalStop (negativeAddress s.dst 1)) ∨
    (0 ≤ s.dst.toInt ∧ Params.capAllows s.params s.dst.toNat = true ∧
      t = ((s.storeWord s.dst.toNat v).advance 2).setRun .ready) := by
  unfold storeInput memWrite at h
  split at h
  · rename_i hd
    exact .inl ⟨hd, by simpa [settle, Except.map, eq_comm] using h⟩
  · rename_i hd
    split at h
    · rename_i hc
      exact .inr ⟨Int.not_lt.mp hd, hc, by simpa [settle, Except.map, eq_comm] using h⟩
    · simp [settle, Except.map] at h

theorem deferredDest_error_cause {s : State} {e : FatalError} (h : deferredDest s = .error e) :
    e.cause ≠ .ioError := by
  unfold deferredDest at h
  rcases hf : fetchInstr s with e' | i
  · simp only [hf, bind, Except.bind] at h
    cases h
    exact fetchInstr_error_cause hf
  · simp only [hf, bind, Except.bind] at h
    obtain h | h := writeAddress_error_cause h <;> simp [h]

/-- The deferred destination, the successful case: that of the instruction at PC (R112). -/
theorem deferredDest_eq_ok {s : State} {d : Word} :
    deferredDest s = .ok d ↔ ∃ i, fetchInstr s = .ok i ∧ writeAddress s 1 i.modes.1 = .ok d := by
  unfold deferredDest
  rcases fetchInstr s with e | i <;> simp [bind, Except.bind]

/-- INPUT, completion step (R112), both variants. -/
theorem completeInput_cases {s t : State} {v : Word} (h : completeInput s v = .next t) :
    (∃ e, e.cause ≠ .ioError ∧ t = s.fatalStop e ∧
      (s.params.inputFaultBeforeRequest = true → s.dst.toInt < 0)) ∨
    (∃ d, (s.params.inputFaultBeforeRequest = true ∧ d = s.dst ∨
        s.params.inputFaultBeforeRequest = false ∧ deferredDest s = .ok d) ∧
      0 ≤ d.toInt ∧ Params.capAllows s.params d.toNat = true ∧
      t = (((s.setDst d).storeWord d.toNat v).advance 2).setRun .ready) := by
  unfold completeInput at h
  split at h
  · rename_i hb
    obtain ⟨hd, ht⟩ | ⟨hd, hc, ht⟩ := settle_storeInput_cases h
    · exact .inl ⟨_, by simp [negativeAddress], ht, fun _ => hd⟩
    · exact .inr ⟨s.dst, .inl ⟨hb, rfl⟩, hd, hc, ht⟩
  · rename_i hb
    rcases ho : deferredDest s with e | d
    · exact .inl ⟨e, deferredDest_error_cause ho, by simpa [ho, eq_comm] using h, by simp [hb]⟩
    · simp only [ho] at h
      obtain ⟨-, ht⟩ | ⟨hd, hc, ht⟩ := settle_storeInput_cases h
      · exact .inl ⟨_, by simp [negativeAddress], ht, by simp [hb]⟩
      · exact .inr ⟨d, .inr ⟨by simpa using hb, rfl⟩, hd, hc, ht⟩

/-- INPUT completes (R112) where the destination is an address and `MEM_CAP` leaves room, in both variants. -/
theorem completeInput_of_ok {s : State} {d : Word} (v : Word)
    (hd : s.params.inputFaultBeforeRequest = true ∧ s.dst = d ∧ 0 ≤ d.toInt ∨
      s.params.inputFaultBeforeRequest = false ∧ deferredDest s = .ok d)
    (hc : Params.capAllows s.params d.toNat = true) :
    completeInput s v = .next ((((s.setDst d).storeWord d.toNat v).advance 2).setRun .ready) := by
  obtain ⟨hb, rfl, h0⟩ | ⟨hb, hdd⟩ := hd
  · have hw : memWrite s 1 s.dst v = .ok (s.storeWord s.dst.toNat v) := memWrite_eq_ok.mpr ⟨h0, hc, rfl⟩
    simp [completeInput, hb, storeInput, hw, Except.map, settle]
    rfl
  · obtain ⟨i, -, hw⟩ := deferredDest_eq_ok.mp hdd
    obtain ⟨p, -, h0, -⟩ := writeAddress_eq_ok.mp hw
    have hw : memWrite (s.setDst d) 1 d v = .ok ((s.setDst d).storeWord d.toNat v) :=
      memWrite_eq_ok.mpr ⟨h0, hc, rfl⟩
    simp [completeInput, hb, hdd, storeInput, hw, Except.map, settle]

theorem offerInput_word {s : State} (h : s.run = .awaitingInput) (v : Word) :
    offerInput s (.word v) = completeInput s v := by
  simp [offerInput, h]

theorem offerInput_error {s : State} (h : s.run = .awaitingInput) :
    offerInput s .error = if s.params.ioErrors then raise s ioFatal else .next s := by
  simp [offerInput, h]

theorem offerInput_silent {s : State} : offerInput s .silent = .next s := by
  unfold offerInput
  split <;> rfl

/-- A waiting step with a word as the next answer is the completion (R112). -/
theorem awaitStep_of_word {s : State} {v : Word} {rest : List InAnswer} (hrun : s.run = .awaitingInput)
    (ha : s.inAnswers = .word v :: rest) : awaitStep s = completeInput (s.setInAnswers rest) v := by
  simp only [awaitStep, ha]
  exact offerInput_word (s := s.setInAnswers rest) hrun v

/-- One waiting step (R112, R116, R119): no answer or an ignored one, an error answer, or the completion. -/
theorem awaitStep_cases {s t : State} (hrun : s.run = .awaitingInput) (h : awaitStep s = .next t) :
    (∃ rest, t = s.setInAnswers rest) ∨
    (∃ rest, s.params.ioErrors = true ∧ s.inAnswers = .error :: rest ∧
      t = (s.setInAnswers rest).fatalStop ioFatal) ∨
    (∃ v rest, s.inAnswers = .word v :: rest ∧ completeInput (s.setInAnswers rest) v = .next t) := by
  unfold awaitStep at h
  rcases ha : s.inAnswers with _ | ⟨a, rest⟩
  · simp only [ha] at h
    cases h
    exact .inl ⟨[], by simp [State.setInAnswers, ← ha]⟩
  · simp only [ha] at h
    have hrun' : (s.setInAnswers rest).run = .awaitingInput := hrun
    cases a with
    | word v => exact .inr (.inr ⟨v, rest, rfl, by rwa [offerInput_word hrun'] at h⟩)
    | error =>
      rw [offerInput_error hrun'] at h
      split at h
      · rename_i hio
        exact .inr (.inl ⟨rest, hio, rfl, by simpa [eq_comm] using h⟩)
      · exact .inl ⟨rest, by simpa [eq_comm] using h⟩
    | silent =>
      rw [offerInput_silent] at h
      exact .inl ⟨rest, by simpa [eq_comm] using h⟩

end Sys2Proof.Machine
end

