-- ==== Sys2Proof/Laws/PerInstr.lean ====
section
/-! SUPPORT. What holds of every instruction as syntax, one lemma per constructor. -/

/-- The decoder gives back the instruction that the encoder encoded (spec/30_encoding.md R71), whether or not upper
digits are checked. -/
def Sys2Proof.Laws.EncodeDecode.Statement (i : Sys2Proof.Instr) : Prop :=
  ∀ strict : Bool, Sys2Proof.decode strict (Sys2Proof.encode i) = .ok i

namespace Sys2Proof.Laws.EncodeDecode

open Sys2Proof

theorem add (m1 m2 m3 : Mode) : Statement (.add m1 m2 m3) := by
  intro strict; cases strict <;> cases m1 <;> cases m2 <;> cases m3 <;> rfl

theorem mul (m1 m2 m3 : Mode) : Statement (.mul m1 m2 m3) := by
  intro strict; cases strict <;> cases m1 <;> cases m2 <;> cases m3 <;> rfl

theorem input (m1 m2 m3 : Mode) : Statement (.input m1 m2 m3) := by
  intro strict; cases strict <;> cases m1 <;> cases m2 <;> cases m3 <;> rfl

theorem output (m1 m2 m3 : Mode) : Statement (.output m1 m2 m3) := by
  intro strict; cases strict <;> cases m1 <;> cases m2 <;> cases m3 <;> rfl

theorem jnz (m1 m2 m3 : Mode) : Statement (.jnz m1 m2 m3) := by
  intro strict; cases strict <;> cases m1 <;> cases m2 <;> cases m3 <;> rfl

theorem jz (m1 m2 m3 : Mode) : Statement (.jz m1 m2 m3) := by
  intro strict; cases strict <;> cases m1 <;> cases m2 <;> cases m3 <;> rfl

theorem lt (m1 m2 m3 : Mode) : Statement (.lt m1 m2 m3) := by
  intro strict; cases strict <;> cases m1 <;> cases m2 <;> cases m3 <;> rfl

theorem eq (m1 m2 m3 : Mode) : Statement (.eq m1 m2 m3) := by
  intro strict; cases strict <;> cases m1 <;> cases m2 <;> cases m3 <;> rfl

theorem setRb (m1 m2 m3 : Mode) : Statement (.setRb m1 m2 m3) := by
  intro strict; cases strict <;> cases m1 <;> cases m2 <;> cases m3 <;> rfl

theorem halt (m1 m2 m3 : Mode) : Statement (.halt m1 m2 m3) := by
  intro strict; cases strict <;> cases m1 <;> cases m2 <;> cases m3 <;> rfl

end Sys2Proof.Laws.EncodeDecode
end

