-- ==== Sys2Proof/Laws/Step.lean ====
section
/-! SUPPORT. One step, by run state. -/

namespace Sys2Proof.Machine

open Sys2Proof

theorem step_of_ready {s : State} (h : s.run = .ready) (he : s.runEnable = true) : step s = cycle s := by
  simp [step, runStep, h, he]

theorem step_of_paused {s : State} (h : s.run = .ready) (he : s.runEnable = false) : step s = .next s := by
  simp [step, runStep, h, he]

theorem step_of_awaiting {s : State} (h : s.run = .awaitingInput) : step s = awaitStep s := by
  simp [step, runStep, h]

theorem step_of_halted {s : State} (h : s.run = .halted) : step s = .next s := by
  simp [step, runStep, h]

theorem step_of_faulted {s : State} (h : s.run = .faulted) : step s = .next s := by
  simp [step, runStep, h]

theorem cycle_of_fetch {s : State} {i : Instr} (h : fetchInstr s = .ok i) : cycle s = exec i s := by
  simp [cycle, h]

theorem cycle_of_fetch_error {s : State} {e : FatalError} (h : fetchInstr s = .error e) :
    cycle s = .next (s.fatalStop e) := by
  simp [cycle, h]

/-- What a step that has a next state did (R164). -/
theorem step_cases {s t : State} (h : step s = .next t) :
    (s.run = .ready ∧ s.runEnable = false ∧ t = s) ∨
    (s.run = .ready ∧ s.runEnable = true ∧ ∃ e, fetchInstr s = .error e ∧ t = s.fatalStop e) ∨
    (s.run = .ready ∧ s.runEnable = true ∧ ∃ i, fetchInstr s = .ok i ∧ exec i s = .next t) ∨
    (s.run = .awaitingInput ∧ awaitStep s = .next t) ∨
    (s.run = .halted ∧ t = s) ∨
    (s.run = .faulted ∧ t = s) := by
  cases hr : s.run with
  | ready =>
    cases he : s.runEnable with
    | false =>
      rw [step_of_paused hr he] at h
      cases h
      simp
    | true =>
      rw [step_of_ready hr he] at h
      rcases hf : fetchInstr s with e | i
      · rw [cycle_of_fetch_error hf] at h
        cases h
        simp
      · rw [cycle_of_fetch hf] at h
        simp [h]
  | awaitingInput =>
    rw [step_of_awaiting hr] at h
    simp [h]
  | halted =>
    rw [step_of_halted hr] at h
    cases h
    simp
  | faulted =>
    rw [step_of_faulted hr] at h
    cases h
    simp

/-! ### Runs -/

theorem run_zero (s : State) : Host.Core.run Sys2Proof.core 0 s = .next s := rfl

/-- The host's run, unrolled once, for any machine. -/
theorem coreRun_succ (M : Host.Core) (n : Nat) (s : M.State) :
    M.run (n + 1) s = match M.step s with
      | .next u => M.run n u
      | .fault r => .fault r
      | .refused r => .refused r := by
  cases h : M.step s <;> simp [Host.Core.run, h]

theorem run_succ_of_next {s u : State} (n : Nat) (h : step s = .next u) :
    Host.Core.run Sys2Proof.core (n + 1) s = Host.Core.run Sys2Proof.core n u := by
  have h' : Sys2Proof.core.step s = .next u := h
  exact (coreRun_succ Sys2Proof.core n s).trans (by rw [h'])

/-- A run of `n + 1` steps that ends in a state is a step and a run of `n` steps. -/
theorem run_succ_eq_next {s t : State} {n : Nat} (h : Host.Core.run Sys2Proof.core (n + 1) s = .next t) :
    ∃ u : State, step s = .next u ∧ Host.Core.run Sys2Proof.core n u = .next t := by
  have h := (coreRun_succ Sys2Proof.core n s).symm.trans h
  cases hs : Sys2Proof.core.step s with
  | next u => exact ⟨u, hs, by rwa [hs] at h⟩
  | fault f =>
    rw [hs] at h
    cases h
  | refused r =>
    rw [hs] at h
    cases h

end Sys2Proof.Machine
end

