-- ==== Sys2Proof/Tests/Slice0.lean ====
section
/-! SUPPORT. Tests: the checks of WellFormed, decoding of words written out from the encoding rules, one-step tests, and
for each statement with hypotheses a witness that meets them. Expected values come from spec/95_test_vectors.md (the
vector's name stands in the docstring) or from the rule named; none was obtained from the model. -/

namespace Sys2Proof.Tests

open Sys2Proof Sys2Proof.Machine

/-! ### Helpers -/

/-- A core reset with this image, default parameters. -/
def boot (image : List Word) : State := bootImage Params.default image

/-- The parameters with `IO_ERRORS`. -/
def withIoErrors : Params := { Params.default with ioErrors := true }

/-- The parameters of the deferred INPUT variant. -/
def deferred : Params := { Params.default with inputFaultBeforeRequest := false }

/-- Whether the outcome is a next state with this property. -/
def nextMeets (p : State → Bool) : Host.Outcome State Fault Refusal → Bool
  | .next t => p t
  | .fault _ => false
  | .refused _ => false

theorem exists_next {o : Host.Outcome State Fault Refusal} (p : State → Bool) (h : nextMeets p o = true) :
    ∃ t, o = .next t ∧ p t = true := by
  cases o with
  | next t => exact ⟨t, rfl, h⟩
  | fault f => cases h
  | refused r => cases h

theorem meets_of_next {o : Host.Outcome State Fault Refusal} {p : State → Bool} {t : State}
    (h : nextMeets p o = true) (ht : o = .next t) : p t = true := by
  subst ht
  exact h

/-- The next state is FAULTED with this code, EINFO and ESLOT, at this PC, with this event record. -/
def faultedAt (err : BitVec 3) (einfo : Word) (eslot : Slot) (pc : Word) (io : List IoEvent) (t : State) : Bool :=
  decide (t.run = .faulted ∧ t.err = err ∧ t.einfo = einfo ∧ t.eslot = eslot ∧ t.pc = pc ∧ t.io = io)

/-- The next state has this RUN, PC and RB, and this word at this address. -/
def standsAt (run : RunState) (pc rb : Word) (a : Nat) (v : Word) (t : State) : Bool :=
  decide (t.run = run ∧ t.pc = pc ∧ t.rb = rb ∧ t.mem.read a = v)

/-! ### WellFormed: each check refuses an ill-formed term -/

/-- R65, R70: IMMEDIATE in the write slot, for each instruction that has one. -/
theorem test_wellFormed_refuses :
    Instr.wellFormed (.add .position .position .immediate) = false ∧
    Instr.wellFormed (.mul .immediate .immediate .immediate) = false ∧
    Instr.wellFormed (.lt .relative .position .immediate) = false ∧
    Instr.wellFormed (.eq .position .relative .immediate) = false ∧
    Instr.wellFormed (.input .immediate .position .position) = false := by decide

/-- R65, R67: IMMEDIATE in a read slot or an unused slot is well formed. -/
theorem test_wellFormed_accepts :
    Instr.wellFormed (.add .immediate .immediate .relative) = true ∧
    Instr.wellFormed (.input .position .immediate .immediate) = true ∧
    Instr.wellFormed (.output .immediate .position .immediate) = true ∧
    Instr.wellFormed (.jnz .immediate .immediate .immediate) = true ∧
    Instr.wellFormed (.jz .immediate .immediate .immediate) = true ∧
    Instr.wellFormed (.setRb .immediate .immediate .immediate) = true ∧
    Instr.wellFormed (.halt .immediate .immediate .immediate) = true := by decide

theorem test_wordSignLegal_refuses : wordSignLegal (wrap64 (-1)) = false := by decide

theorem test_wordOpcodeLegal_refuses : wordOpcodeLegal 0 = false ∧ wordOpcodeLegal 98 = false := by decide

theorem test_wordModeLegal_refuses :
    wordModeLegal 1 301 = false ∧ wordModeLegal 2 3099 = false ∧ wordModeLegal 3 30003 = false := by decide

theorem test_wordUpperLegal_refuses : wordUpperLegal true 100001 = false ∧ wordUpperLegal false 100001 = true := by
  decide

theorem test_legalWord : legalWord false 22299 = true ∧ legalWord false 93301 = false ∧
    legalWord true 100001 = false := by decide

/-! ### Decode: one word written out for every constructor (95, 2.1), and the rejections -/

/-- 1101 = opcode 01, digits 1, 1, 0. -/
theorem test_decode_add : decode false 1101 = .ok (.add .immediate .immediate .position) := by decide

/-- 1002 = opcode 02, digits 0, 1, 0. -/
theorem test_decode_mul : decode false 1002 = .ok (.mul .position .immediate .position) := by decide

/-- 203 = opcode 03, digits 2, 0, 0. -/
theorem test_decode_input : decode false 203 = .ok (.input .relative .position .position) := by decide

/-- 10104 = opcode 04, digits 1, 0, 1: the unused digit of slot 3 is kept. -/
theorem test_decode_output : decode false 10104 = .ok (.output .immediate .position .immediate) := by decide

/-- 2105 = opcode 05, digits 1, 2, 0. -/
theorem test_decode_jnz : decode false 2105 = .ok (.jnz .immediate .relative .position) := by decide

/-- 1006 = opcode 06, digits 0, 1, 0. -/
theorem test_decode_jz : decode false 1006 = .ok (.jz .position .immediate .position) := by decide

/-- 22207 = opcode 07, digits 2, 2, 2. -/
theorem test_decode_lt : decode false 22207 = .ok (.lt .relative .relative .relative) := by decide

/-- 1108 = opcode 08, digits 1, 1, 0. -/
theorem test_decode_eq : decode false 1108 = .ok (.eq .immediate .immediate .position) := by decide

/-- 209 = opcode 09, digits 2, 0, 0. -/
theorem test_decode_setRb : decode false 209 = .ok (.setRb .relative .position .position) := by decide

/-- 20099 = opcode 99, digits 0, 0, 2. -/
theorem test_decode_halt : decode false 20099 = .ok (.halt .position .position .relative) := by decide

/-- 95, 2.1: unknown opcodes, among them zero, codes beside the ten, and negative words. -/
theorem test_decode_unknownOpcode :
    decode false 0 = .error .unknownOpcode ∧ decode false 10 = .error .unknownOpcode ∧
    decode false 98 = .error .unknownOpcode ∧ decode false 342 = .error .unknownOpcode ∧
    decode false (wrap64 (-99)) = .error .unknownOpcode ∧
    decode false (wrap64 (-9223372036854775808)) = .error .unknownOpcode := by decide

/-- 95, 2.1: unknown modes, the lowest bad slot reported, unused slots too. -/
theorem test_decode_unknownMode :
    decode false 301 = .error (.unknownMode 1) ∧ decode false 3099 = .error (.unknownMode 2) ∧
    decode false 30003 = .error (.unknownMode 3) ∧ decode false 93301 = .error (.unknownMode 1) ∧
    decode false 9223372036854775807 = .error (.unknownMode 1) := by decide

/-- 95, 2.1: the digit of weight 10^5 is ignored, or refused under STRICT_UPPER_DIGITS (R68). -/
theorem test_decode_upper :
    decode false 9223372036854700001 = .ok (.add .position .position .position) ∧
    decode true 100001 = .error .unknownOpcode := by decide

/-- The canonical words worked out in 95, 2.1. -/
theorem test_encode :
    encode (.lt .relative .relative .relative) = 22207 ∧ encode (.halt .position .position .relative) = 20099 := by
  decide

/-- The decoder takes the first word; a rejected word gives none. -/
theorem test_decodeTableWord :
    decodeTableWord 256 (1101 + 7 * 2 ^ 64) = some (.add .immediate .immediate .position) ∧
    decodeTableWord 64 42 = none := by decide

/-- The placed word is what the first step after reset runs; a parameter word follows it. -/
theorem test_withFetchWord :
    nextMeets (standsAt .halted 0 0 1 0) (step (State.reset.withFetchWord 64 99)) = true ∧
    nextMeets (fun t => t.outputs == [5]) (step (State.reset.withFetchWord 128 (104 + 5 * 2 ^ 64))) = true := by
  decide

/-! ### Words, memory, operands -/

/-- The arithmetic of A5, A6, A8, A9 (95, 2.3): sums and products wrap. -/
theorem test_arith :
    (addWord 9223372036854775807 1).toInt = -9223372036854775808 ∧
    (addWord (wrap64 (-9223372036854775808)) (wrap64 (-1))).toInt = 9223372036854775807 ∧
    (mulWord 3037000500 3037000500).toInt = -9223372036709301616 ∧
    (mulWord (wrap64 (-1)) (wrap64 (-9223372036854775808))).toInt = -9223372036854775808 := by decide

/-- A12, A13, A15, A16 (95, 2.3): LT is signed and compares values; EQ. -/
theorem test_compare :
    ltWord (wrap64 (-1)) 0 = 1 ∧ ltWord 0 (wrap64 (-1)) = 0 ∧
    ltWord (wrap64 (-9223372036854775808)) 9223372036854775807 = 1 ∧
    eqWord 9223372036854775807 (wrap64 (-9223372036854775808)) = 0 ∧ eqWord 8 8 = 1 := by decide

/-- 95, 2.9: the memory unit with image [5, 6], loads and stores in the listed order. -/
theorem test_memory :
    let m := Memory.ofImage 0 [5, 6]
    let m5 := m.write 4 9
    load m 1 0 = .ok 5 ∧ load m 1 1000000 = .ok 0 ∧
    load m 1 (wrap64 (-1)) = .error (negativeAddress (wrap64 (-1)) 1) ∧
    load m5 1 3 = .ok 0 ∧ load m5 1 4 = .ok 9 ∧ load (m5.write 4 0) 1 4 = .ok 0 ∧ m5.write 4 0 = m := by decide

/-- The start state of 95, 2.2: PC = 10, RB = 5, the parameter word at 11. -/
def operandState (p : Word) : State :=
  { State.reset with pc := 10, rb := 5, mem := [(0, 1101), (11, p), (50, 7), (55, 8)] }

/-- 95, 2.2, rows POSITION 50, RELATIVE 50, RELATIVE -5, IMMEDIATE -1. -/
theorem test_readOperand :
    readOperand (operandState 50) 1 .position = .ok 7 ∧ readOperand (operandState 50) 1 .relative = .ok 8 ∧
    readOperand (operandState (wrap64 (-5))) 1 .relative = .ok 1101 ∧
    readOperand (operandState (wrap64 (-1))) 1 .immediate = .ok (wrap64 (-1)) := by decide

/-- 95, 2.2, rows RELATIVE -6, RELATIVE 9223372036854775807, IMMEDIATE 50, RELATIVE 9223372036854775802. -/
theorem test_writeAddress :
    writeAddress (operandState (wrap64 (-6))) 1 .relative = .error (negativeAddress (wrap64 (-1)) 1) ∧
    writeAddress (operandState 9223372036854775807) 1 .relative =
      .error (negativeAddress (wrap64 (-9223372036854775804)) 1) ∧
    writeAddress (operandState 50) 1 .immediate = .error { cause := .immediateWrite, info := 50, slot := 1 } ∧
    writeAddress (operandState 9223372036854775802) 1 .relative = .ok 9223372036854775807 := by decide

/-! ### One step of each instruction (95, 2.3 to 2.7) -/

/-- Traces of S4 (95, 1.2): its second step, RB 5. -/
theorem test_add_relative :
    nextMeets (standsAt .ready 6 5 5 10)
      (step { boot [109, 5, 21101, 7, 3, 0, 4, 0, 99] with pc := 2, rb := 5 }) = true := by decide

/-- A21: a negative destination, no store. -/
theorem test_add_fault :
    nextMeets (fun t => faultedAt 3 (wrap64 (-5)) 3 0 [] t && t.mem == (boot [1101, 1, 1, wrap64 (-5), 99]).mem)
      (step (boot [1101, 1, 1, wrap64 (-5), 99])) = true := by decide

/-- A2: a store into the next instruction word. -/
theorem test_mul : nextMeets (standsAt .ready 4 0 4 99) (step (boot [1002, 4, 3, 4, 33])) = true := by decide

/-- A10: -3 * 4. -/
theorem test_mul_signs :
    nextMeets (standsAt .ready 4 0 0 (wrap64 (-12))) (step (boot [1102, wrap64 (-3), 4, 0, 99])) = true := by decide

/-- A18: 7 < 99, stored one past the image. -/
theorem test_lt : nextMeets (standsAt .ready 4 0 5 1) (step (boot [7, 0, 4, 5, 99])) = true := by decide

/-- A14: equals are not less. -/
theorem test_lt_equal : nextMeets (standsAt .ready 4 0 0 0) (step (boot [1107, 5, 5, 0, 99])) = true := by decide

/-- A17: both sources and the destination are the instruction's own word. -/
theorem test_eq : nextMeets (standsAt .ready 4 0 0 1) (step (boot [8, 0, 0, 0, 99])) = true := by decide

/-- X6: the slot 1 load fault precedes the ImmediateWrite of slot 3, here on EQ (10008). -/
theorem test_eq_fault_order :
    nextMeets (faultedAt 3 (wrap64 (-1)) 1 0 []) (step (boot [10008, wrap64 (-1), 0, 0, 99])) = true := by decide

/-- S1, step 1: the request latches DST and leaves PC. -/
theorem test_input_request :
    nextMeets (fun t => standsAt .awaitingInput 0 0 0 3 t && t.dst == 0 && t.io == [.request])
      (step (boot [3, 0, 4, 0, 99])) = true := by decide

/-- I2, completion: INPUT overwrites its own word, PC 2. -/
theorem test_input_completion :
    nextMeets (standsAt .ready 2 0 0 77)
      (step { boot [203, 0, 99] with run := .awaitingInput, inAnswers := [.word 77] }) = true := by decide

/-- O3, the OUTPUT: RELATIVE 3 + 2 reads address 5. -/
theorem test_output :
    nextMeets (fun t => standsAt .ready 4 2 5 0 t && t.outputs == [0])
      (step { boot [109, 2, 204, 3, 99, 0, 0] with pc := 2, rb := 2 }) = true := by decide

/-- O7: the consumer saw 5 and answered with an error. -/
theorem test_output_error :
    nextMeets (faultedAt 5 0 0 0 [.out 5])
      (step { boot [104, 5, 99] with params := withIoErrors, outAnswers := [.error] }) = true := by decide

/-- J8: a POSITION target is an indirect jump. -/
theorem test_jnz : nextMeets (standsAt .ready 6 0 1 1) (step (boot [5, 1, 4, 99, 6])) = true := by decide

/-- J1: a taken jump to a negative target faults at the jump. -/
theorem test_jnz_fault :
    nextMeets (faultedAt 3 (wrap64 (-7)) 2 0 []) (step (boot [1105, 1, wrap64 (-7)])) = true := by decide

/-- J9: the zero beyond the extent takes the jump. -/
theorem test_jz : nextMeets (standsAt .ready 3 0 3 99) (step (boot [1006, 5, 3, 99])) = true := by decide

/-- J15: the second operand is evaluated although the jump would not be taken. -/
theorem test_jz_eager :
    nextMeets (faultedAt 3 (wrap64 (-1)) 2 0 []) (step (boot [6, 3, wrap64 (-1), 1, 99])) = true := by decide

/-- RB5, second step: the operand is read with the old RB. -/
theorem test_setRb :
    nextMeets (standsAt .ready 4 3 3 1) (step { boot [109, 2, 209, 1, 99] with pc := 2, rb := 2 }) = true := by decide

/-- RB2, second step: RB wraps silently. -/
theorem test_setRb_wraps :
    nextMeets (standsAt .ready 2 (wrap64 (-9223372036854775808)) 1 1)
      (step { boot [109, 1, 99] with rb := 9223372036854775807 }) = true := by decide

/-- H2: PC keeps the address of the HALT word. -/
theorem test_halt : nextMeets (standsAt .halted 0 0 0 1199) (step (boot [1199])) = true := by decide

/-- X1: the empty image. -/
theorem test_empty_image : nextMeets (faultedAt 1 0 0 0 []) (step (boot [])) = true := by decide

/-- W2, its last step: the fetch at the PC wrapped past the top. -/
theorem test_fetch_negative :
    nextMeets (faultedAt 3 (wrap64 (-9223372036854775808)) 0 (wrap64 (-9223372036854775808)) [])
      (step { boot [99] with pc := wrap64 (-9223372036854775808) }) = true := by decide

/-- W1, its last step: the parameter fetch past the top. -/
theorem test_param_negative :
    nextMeets (faultedAt 3 (wrap64 (-9223372036854775808)) 1 9223372036854775807 [])
      (step { boot [] with pc := 9223372036854775807, mem := [(9223372036854775807, 104)] }) = true := by decide

/-- R191: the debug read of a paused core, a running core, and a negative address. -/
theorem test_debugRead :
    debugRead (hostRun (boot [7, 8]) false) 1 = some 8 ∧ debugRead (boot [7, 8]) 1 = none ∧
    debugRead (hostRun (boot [7, 8]) false) (wrap64 (-1)) = none := by decide

/-! ### Witnesses: states and operands that meet the hypotheses of each statement -/

/-- The two sides of the equivalence, at the largest canonical word. -/
theorem witness_DecodeAgreesWithEncode :
    decode true 22299 = .ok (.halt .relative .relative .relative) ∧ 0 ≤ (22299 : Word).toInt ∧
    (22299 : Word).toInt % 100000 = encodeNat (.halt .relative .relative .relative) ∧
    (22299 : Word).toInt < 100000 := by decide

/-- Both sides of the equivalence, rejected and accepted; E3's second step, and the empty image. -/
theorem witness_DecodeRejectsExactlyIllegalWords :
    legalWord false 98 = false ∧ legalWord false 99 = true ∧ legalWord true 100001 = false ∧
    decode false 99 ≠ .error .unknownOpcode ∧
    (let s : State := { boot [2, 0, 0, 0, 42] with pc := 4 }
     s.run = .ready ∧ s.runEnable = true ∧ 0 ≤ s.pc.toInt ∧
      legalWord s.params.strictUpperDigits (s.mem.read s.pc.toNat) = false) ∧
    legalWord (boot []).params.strictUpperDigits ((boot []).mem.read (boot []).pc.toNat) = false := by decide

/-- One word for each clause, at the boundary values of the sign, the codes and the digits. -/
theorem witness_DecodeChecksInOrder :
    wordSignLegal (wrap64 (-1)) = false ∧ wordOpcodeLegal 10 = false ∧
    (wordSignLegal 301 = true ∧ wordOpcodeLegal 301 = true ∧ wordModeLegal 1 301 = false) ∧
    (wordSignLegal 3099 = true ∧ wordOpcodeLegal 3099 = true ∧ wordModeLegal 1 3099 = true ∧
      wordModeLegal 2 3099 = false) ∧
    (wordSignLegal 30003 = true ∧ wordOpcodeLegal 30003 = true ∧ wordModeLegal 1 30003 = true ∧
      wordModeLegal 2 30003 = true ∧ wordModeLegal 3 30003 = false) ∧
    (wordSignLegal 22299 = true ∧ wordOpcodeLegal 22299 = true ∧ wordModeLegal 1 22299 = true ∧
      wordModeLegal 2 22299 = true ∧ wordModeLegal 3 22299 = true) := by decide

/-- PC + k at the last address, and one past it. -/
theorem witness_ParameterFetchAddress :
    let low : State := { boot [] with pc := 9223372036854775806 }
    let top : State := { boot [] with pc := 9223372036854775807 }
    (0 ≤ low.pc.toInt ∧ (1 : Slot) ≠ 0 ∧ low.pc.toInt + (1 : Slot).val ≤ 9223372036854775807) ∧
    (0 ≤ top.pc.toInt ∧ 9223372036854775807 < top.pc.toInt + (1 : Slot).val) := by decide

/-- A parameter that cannot be fetched, parameters 0 and -1, and effective addresses 0 and -1 (95, 2.2). -/
theorem witness_ReadOperandByMode :
    (∃ e, paramWord { boot [] with pc := 9223372036854775807 } 1 = .error e) ∧
    (paramWord (operandState 0) 1 = .ok 0 ∧ 0 ≤ (0 : Word).toInt) ∧
    (paramWord (operandState (wrap64 (-1))) 1 = .ok (wrap64 (-1)) ∧ (wrap64 (-1)).toInt < 0) ∧
    (paramWord (operandState (wrap64 (-5))) 1 = .ok (wrap64 (-5)) ∧
      0 ≤ (wrap64 ((wrap64 (-5)).toInt + (operandState (wrap64 (-5))).rb.toInt)).toInt) ∧
    (paramWord (operandState (wrap64 (-6))) 1 = .ok (wrap64 (-6)) ∧
      (wrap64 ((wrap64 (-6)).toInt + (operandState (wrap64 (-6))).rb.toInt)).toInt < 0) :=
  ⟨⟨_, rfl⟩, by decide⟩

/-- As for reading, in slot 3 of a state whose parameter stands at 13. -/
theorem witness_WriteAddressByMode :
    let at13 (p : Word) : State := { State.reset with pc := 10, rb := 5, mem := Memory.write [] 13 p }
    (∃ e, paramWord { boot [] with pc := 9223372036854775805 } 3 = .error e) ∧
    (paramWord (at13 0) 3 = .ok 0 ∧ 0 ≤ (0 : Word).toInt) ∧
    (paramWord (at13 (wrap64 (-1))) 3 = .ok (wrap64 (-1)) ∧ (wrap64 (-1)).toInt < 0) ∧
    (paramWord (at13 (wrap64 (-5))) 3 = .ok (wrap64 (-5)) ∧
      0 ≤ (wrap64 ((wrap64 (-5)).toInt + (at13 (wrap64 (-5))).rb.toInt)).toInt) ∧
    (paramWord (at13 (wrap64 (-6))) 3 = .ok (wrap64 (-6)) ∧
      (wrap64 ((wrap64 (-6)).toInt + (at13 (wrap64 (-6))).rb.toInt)).toInt < 0) :=
  ⟨⟨_, rfl⟩, by decide⟩

/-- Sums at both ends of the range, and one past each end. -/
theorem witness_RelativeAddressWraps :
    let base (rb : Word) : State := { boot [] with rb := rb }
    (9223372036854775806 : Word).toInt + (base 1).rb.toInt = 9223372036854775807 ∧
    (9223372036854775807 : Word).toInt + (base 1).rb.toInt = 9223372036854775808 ∧
    (wrap64 (-9223372036854775807)).toInt + (base (wrap64 (-1))).rb.toInt = -9223372036854775808 ∧
    (wrap64 (-9223372036854775808)).toInt + (base (wrap64 (-1))).rb.toInt = -9223372036854775809 := by decide

/-- Address -1; the largest address and another beside it; an address inside the extent. -/
theorem witness_StoreThenLoadReturnsWord :
    (boot [5, 6]).mem.wf ∧ (wrap64 (-1)).toInt < 0 ∧
    (0 ≤ (9223372036854775807 : Word).toInt ∧
      Params.capAllows (boot [5, 6]).params (9223372036854775807 : Word).toNat = true ∧
      (0 : Word) ≠ 9223372036854775807 ∧ (boot [5, 6]).ext ≤ (9223372036854775807 : Word).toNat) ∧
    (Params.capAllows (boot [5, 6]).params (1 : Word).toNat = true ∧ (1 : Word).toNat < (boot [5, 6]).ext) := by
  decide

/-- The first instruction of S4, and a HALT at the largest PC. -/
theorem witness_StepRunsDecodedInstruction :
    let s := boot [109, 5, 21101, 7, 3, 0, 4, 0, 99]
    let top : State := { boot [] with pc := 9223372036854775807, mem := [(9223372036854775807, 99)] }
    (s.run = .ready ∧ s.runEnable = true ∧ 0 ≤ s.pc.toInt ∧
      decode s.params.strictUpperDigits (s.mem.read s.pc.toNat) = .ok (.setRb .immediate .position .position)) ∧
    (top.run = .ready ∧ top.runEnable = true ∧ 0 ≤ top.pc.toInt ∧
      decode top.params.strictUpperDigits (top.mem.read top.pc.toNat) = .ok (.halt .position .position .position)) := by
  decide

/-- PC -1; an unknown opcode at PC 0; an unknown mode at the largest PC. -/
theorem witness_FetchAndDecodeErrorsAreFatal :
    let neg : State := { boot [] with pc := wrap64 (-1) }
    let top : State := { boot [] with pc := 9223372036854775807, mem := [(9223372036854775807, 399)] }
    (neg.run = .ready ∧ neg.runEnable = true ∧ neg.pc.toInt < 0) ∧
    (0 ≤ (boot []).pc.toInt ∧ (boot []).mem.read (boot []).pc.toNat = 0 ∧
      decode (boot []).params.strictUpperDigits 0 = .error .unknownOpcode) ∧
    (top.run = .ready ∧ top.runEnable = true ∧ 0 ≤ top.pc.toInt ∧ top.mem.read top.pc.toNat = 399 ∧
      decode top.params.strictUpperDigits 399 = .error (.unknownMode 1)) := by
  decide

/-- What the completion clause of R100 asks, and a state in which slot 1 raises. -/
def rrwMeets (i : Instr) (s bad : State) (a b d : Word) : Prop :=
  readOperand s 1 i.modes.1 = .ok a ∧ readOperand s 2 i.modes.2.1 = .ok b ∧ writeAddress s 3 i.modes.2.2 = .ok d ∧
  Params.capAllows s.params d.toNat = true ∧ s.mem.wf ∧
  ∃ e, operandsRRW bad i.modes.1 i.modes.2.1 i.modes.2.2 = .error e

/-- A19, and A22; the destination is the last address in a third state. -/
theorem witness_AddStoresWrappedSum :
    rrwMeets (.add .position .position .position) (boot [1, 5, 6, 7, 99, 30, 12]) (boot [1, wrap64 (-1), 0, 0, 99])
      30 12 7 ∧
    rrwMeets (.add .immediate .immediate .relative)
      { boot [109, 1, 21101, 1, 2, 9223372036854775806, 4, 0, 99] with pc := 2, rb := 1 }
      { boot [109, 1, 21101, 1, 2, 9223372036854775807, 99] with pc := 2, rb := 1 } 1 2 9223372036854775807 :=
  ⟨⟨by decide, by decide, by decide, by decide, by decide, _, rfl⟩,
   ⟨by decide, by decide, by decide, by decide, by decide, _, rfl⟩⟩

/-- A2, and a MUL whose slot 1 address is negative. -/
theorem witness_MulStoresWrappedProduct :
    rrwMeets (.mul .position .immediate .position) (boot [1002, 4, 3, 4, 33]) (boot [1002, wrap64 (-1), 3, 4, 33])
      33 3 4 :=
  ⟨by decide, by decide, by decide, by decide, by decide, _, rfl⟩

/-- A18, and an LT whose slot 2 address is negative. -/
theorem witness_LtStoresSignedComparison :
    rrwMeets (.lt .position .position .position) (boot [7, 0, 4, 5, 99]) (boot [7, 0, wrap64 (-4), 5, 99]) 7 99 5 :=
  ⟨by decide, by decide, by decide, by decide, by decide, _, rfl⟩

/-- A17, and an EQ whose destination is negative. -/
theorem witness_EqStoresEquality :
    rrwMeets (.eq .position .position .position) (boot [8, 0, 0, 0, 99]) (boot [8, 0, 0, wrap64 (-1), 99]) 8 8 0 :=
  ⟨by decide, by decide, by decide, by decide, by decide, _, rfl⟩

/-- X5 (slot 1), A24 (slot 2), A20 (slot 3), J3 and J15 (the jumps). -/
theorem witness_LowestFaultingSlotWins :
    (∃ e, readOperand (boot [1, wrap64 (-1), wrap64 (-2), wrap64 (-3), 99]) 1 .position = .error e) ∧
    (readOperand (boot [101, wrap64 (-5), wrap64 (-1), 0, 99]) 1 .immediate = .ok (wrap64 (-5)) ∧
      ∃ e, readOperand (boot [101, wrap64 (-5), wrap64 (-1), 0, 99]) 2 .position = .error e) ∧
    (readOperand (boot [10001, 0, 0, 0, 99]) 1 .position = .ok 10001 ∧
      readOperand (boot [10001, 0, 0, 0, 99]) 2 .position = .ok 10001 ∧
      ∃ e, writeAddress (boot [10001, 0, 0, 0, 99]) 3 .immediate = .error e) ∧
    (∃ e, readOperand (boot [5, wrap64 (-1), 0, 99]) 1 .position = .error e) ∧
    (readOperand (boot [6, 3, wrap64 (-1), 1, 99]) 1 .position = .ok 1 ∧
      ∃ e, readOperand (boot [6, 3, wrap64 (-1), 1, 99]) 2 .position = .error e) :=
  ⟨⟨_, rfl⟩, ⟨by decide, _, rfl⟩, ⟨by decide, by decide, _, rfl⟩, ⟨_, rfl⟩, ⟨by decide, _, rfl⟩⟩

/-- J3, a taken jump to 0, J1 with target -1, and J2. -/
theorem witness_JnzJumpsWhenNonZero :
    (∃ e, operandsRR (boot [5, wrap64 (-1), 0, 99]) .position .position = .error e) ∧
    (readOperand (boot [1105, wrap64 (-1), 0]) 1 .immediate = .ok (wrap64 (-1)) ∧
      readOperand (boot [1105, wrap64 (-1), 0]) 2 .immediate = .ok 0 ∧ (wrap64 (-1)).toInt ≠ 0 ∧
      0 ≤ (0 : Word).toInt) ∧
    (readOperand (boot [1105, 1, wrap64 (-1)]) 1 .immediate = .ok 1 ∧
      readOperand (boot [1105, 1, wrap64 (-1)]) 2 .immediate = .ok (wrap64 (-1)) ∧ (1 : Word).toInt ≠ 0 ∧
      (wrap64 (-1)).toInt < 0) ∧
    (readOperand (boot [1105, 0, wrap64 (-7), 99]) 1 .immediate = .ok 0 ∧
      readOperand (boot [1105, 0, wrap64 (-7), 99]) 2 .immediate = .ok (wrap64 (-7)) ∧ (0 : Word).toInt = 0) :=
  ⟨⟨_, rfl⟩, by decide⟩

/-- J15, a taken jump to 0, the same with target -1, and J14. -/
theorem witness_JzJumpsWhenZero :
    (∃ e, operandsRR (boot [6, 3, wrap64 (-1), 1, 99]) .position .position = .error e) ∧
    (readOperand (boot [1106, 0, 0]) 1 .immediate = .ok 0 ∧ readOperand (boot [1106, 0, 0]) 2 .immediate = .ok 0 ∧
      (0 : Word).toInt = 0 ∧ 0 ≤ (0 : Word).toInt) ∧
    (readOperand (boot [1106, 0, wrap64 (-1)]) 1 .immediate = .ok 0 ∧
      readOperand (boot [1106, 0, wrap64 (-1)]) 2 .immediate = .ok (wrap64 (-1)) ∧ (wrap64 (-1)).toInt < 0) ∧
    (readOperand (boot [1006, 3, wrap64 (-1), 5, 99]) 1 .position = .ok 5 ∧
      readOperand (boot [1006, 3, wrap64 (-1), 5, 99]) 2 .immediate = .ok (wrap64 (-1)) ∧ (5 : Word).toInt ≠ 0) :=
  ⟨⟨_, rfl⟩, by decide⟩

/-- RB1 and RB6. -/
theorem witness_SetRbAddsToRb :
    readOperand (boot [109, 19, 99]) 1 .immediate = .ok 19 ∧
    ∃ e, readOperand { boot [109, wrap64 (-1), 209, 0, 99] with pc := 2, rb := wrap64 (-1) } 1 .relative = .error e :=
  ⟨by decide, _, rfl⟩

/-- O1, O4, O7. -/
theorem witness_OutputPresentsOperand :
    (readOperand (boot [104, 5, 99]) 1 .immediate = .ok 5 ∧ outputFails (boot [104, 5, 99]) = false) ∧
    (∃ e, readOperand (boot [4, wrap64 (-1), 99]) 1 .position = .error e) ∧
    (let s : State := { boot [104, 5, 99] with params := withIoErrors, outAnswers := [.error] }
     readOperand s 1 .immediate = .ok 5 ∧ OutputFails s) :=
  ⟨by decide, ⟨_, rfl⟩, by decide, rfl, rfl⟩

/-- S1, I1, and I1 under the deferred variant. -/
theorem witness_InputRequestStep :
    ((boot [3, 0, 4, 0, 99]).params.inputFaultBeforeRequest = true ∧
      writeAddress (boot [3, 0, 4, 0, 99]) 1 .position = .ok 0) ∧
    (∃ e, writeAddress (boot [103, 0, 99]) 1 .immediate = .error e) ∧
    (bootImage deferred [103, 0, 99]).params.inputFaultBeforeRequest = false :=
  ⟨by decide, ⟨_, rfl⟩, rfl⟩

/-- The state of an image whose INPUT at 0 waits, with these parameters and host answers. -/
def waiting (p : Params) (image : List Word) (answers : List InAnswer) : State :=
  { bootImage p image with run := .awaitingInput, inAnswers := answers }

/-- S1 in both variants (destination 0), I5 in both variants (beyond the extent), E1 deferred, I7, silence, I6. -/
theorem witness_InputCompletionStep :
    (let s := waiting Params.default [3, 0, 4, 0, 99] [.word 42]
     s.run = .awaitingInput ∧ s.mem.wf ∧ s.inAnswers = [.word 42] ∧ s.params.inputFaultBeforeRequest = true ∧
      s.dst = 0 ∧ 0 ≤ (0 : Word).toInt ∧ Params.capAllows s.params (0 : Word).toNat = true) ∧
    (let s := waiting deferred [3, 50, 4, 50, 99] [.word 42, .silent]
     s.run = .awaitingInput ∧ s.mem.wf ∧ s.inAnswers = [.word 42, .silent] ∧
      s.params.inputFaultBeforeRequest = false ∧ fetchInstr s = .ok (.input .position .position .position) ∧
      writeAddress s 1 .position = .ok 50 ∧ Params.capAllows s.params (50 : Word).toNat = true) ∧
    (let s := waiting deferred [3, wrap64 (-1), 99] [.word 0]
     s.params.inputFaultBeforeRequest = false ∧ fetchInstr s = .ok (.input .position .position .position) ∧
      s.mem.wf ∧ ∃ e, writeAddress s 1 .position = .error e) ∧
    (let s := waiting withIoErrors [3, 0, 99] [.error]
     s.inAnswers = [.error] ∧ s.params.ioErrors = true ∧ s.mem.wf) ∧
    (let s := waiting Params.default [3, 0, 99] [.silent]
     s.inAnswers = [.silent] ∧ s.mem.wf) ∧
    (let s := waiting Params.default [3, 0, 99] []
     s.inAnswers = [] ∧ s.mem.wf) :=
  ⟨by decide, by decide, ⟨by decide, by decide, by decide, _, rfl⟩, by decide, by decide, by decide⟩

/-- S1 with its input, in both variants. -/
theorem witness_InputTwoStepsAgreeInBothVariants :
    let s : State := { boot [3, 0, 4, 0, 99] with inAnswers := [.word 42] }
    let u : State := { bootImage deferred [3, 0, 4, 0, 99] with inAnswers := [.word 42] }
    (s.run = .ready ∧ s.runEnable = true ∧ s.mem.wf ∧ fetchInstr s = .ok (.input .position .position .position) ∧
      writeAddress s 1 .position = .ok 0 ∧ Params.capAllows s.params (0 : Word).toNat = true ∧
      s.inAnswers = [.word 42]) ∧
    (u.run = .ready ∧ u.runEnable = true ∧ u.mem.wf ∧ fetchInstr u = .ok (.input .position .position .position) ∧
      writeAddress u 1 .position = .ok 0 ∧ Params.capAllows u.params (0 : Word).toNat = true ∧
      u.inAnswers = [.word 42]) := by decide

/-- E4: a halted core is offered a word. -/
theorem witness_UnsolicitedInputIsIgnored : (({ boot [99] with run := .halted } : State).run ≠ .awaitingInput) := by
  decide

/-- A store and an input completion exactly at a capacity of 7. -/
theorem witness_StoreBeyondCapacityIsStuck :
    let p : Params := { Params.default with memCap := some 7 }
    let s := bootImage p [1, 5, 6, 7, 99, 30, 12]
    let u : State := { waiting p [3, 7, 99] [.word 1] with dst := 7 }
    (Instr.isRRW (.add .position .position .position) = true ∧ readOperand s 1 .position = .ok 30 ∧
      readOperand s 2 .position = .ok 12 ∧ writeAddress s 3 .position = .ok 7 ∧ s.params.memCap = some 7 ∧
      7 ≤ (7 : Word).toNat) ∧
    (u.run = .awaitingInput ∧ u.params.inputFaultBeforeRequest = true ∧ u.inAnswers = [.word 1] ∧
      0 ≤ u.dst.toInt ∧ u.params.memCap = some 7 ∧ 7 ≤ u.dst.toNat) := by decide

theorem witness_UnboundedMachineAlwaysSteps : (boot [99]).params.memCap = none := rfl

/-- P5 (a fatal stop of an instruction), O7 (of an output transaction), I7 (of an input transaction). -/
theorem witness_FatalStopIsPrecise :
    let s := boot [1101, 1, 1, wrap64 (-5), 99]
    let u : State := { boot [104, 5, 99] with params := withIoErrors, outAnswers := [.error] }
    let w := waiting withIoErrors [3, 0, 99] [.error]
    (s.run = .ready ∧ ∃ t, step s = .next t ∧ decide (t.run = .faulted ∧ t.err ≠ 5) = true) ∧
    (u.run = .ready ∧ ∃ t, step u = .next t ∧ decide (t.run = .faulted ∧ t.err = 5) = true) ∧
    (w.run = .awaitingInput ∧ ∃ t, step w = .next t ∧ decide (t.run = .faulted ∧ t.err = 5) = true) :=
  ⟨⟨rfl, exists_next _ (by decide)⟩, ⟨rfl, exists_next _ (by decide)⟩, ⟨rfl, exists_next _ (by decide)⟩⟩

/-- Both ends (R165). -/
theorem witness_EndedRunsStayEnded :
    State.ended { boot [99] with run := .halted } ∧ State.ended { boot [] with run := .faulted, err := 1 } :=
  ⟨.inl rfl, .inr rfl⟩

/-- What makes a READY state meet the invariant. -/
theorem inv_of_ready (s : State) (hr : s.run = .ready)
    (hp : 0 ≤ s.pc.toInt ∨ s.pc.toInt = -9223372036854775808) (he : s.err = 0) (hm : s.mem.wf)
    (hx : ∀ c ∈ s.mem, c.1 < s.ext) : s.Inv where
  readyPc _ := hp
  awaiting h := by simp [hr] at h
  halted h := by simp [hr] at h
  errIff := by simp [hr, he]
  memWf := hm
  extent := hx

/-- A core that waits at `INPUT [0]` with DST 0 meets the invariant, whatever the parameters and the answers. -/
theorem waiting_inv (p : Params) (answers : List InAnswer) : (waiting p [3, 0, 99] answers).Inv where
  readyPc h := by cases h
  awaiting _ := by
    refine ⟨.position, .position, .position, ?_, fun _ => ⟨by show (0 : Int) ≤ (0 : Word).toInt; decide, rfl⟩⟩
    refine fetchInstr_eq_ok.mpr ⟨by show (0 : Int) ≤ (0 : Word).toInt; decide, ?_⟩
    show decode p.strictUpperDigits 3 = .ok (.input .position .position .position)
    cases p.strictUpperDigits <;> decide
  halted h := by cases h
  errIff := by
    show (0 : BitVec 3) ≠ 0 ↔ RunState.awaitingInput = .faulted
    decide
  memWf := show (boot [3, 0, 99]).mem.wf by decide
  extent := show ∀ c ∈ (boot [3, 0, 99]).mem, c.1 < (boot [3, 0, 99]).ext by decide

/-- A READY state (S2) and a waiting state (I6 with an answer), each with the invariant and a next state. -/
theorem witness_RunStateTransitions :
    ((boot [4, 3, 99, 1337]).Inv ∧ ∃ t, step (boot [4, 3, 99, 1337]) = .next t ∧ decide (t.run = .ready) = true) ∧
    ((waiting Params.default [3, 0, 99] [.word 7]).Inv ∧
      ∃ t, step (waiting Params.default [3, 0, 99] [.word 7]) = .next t ∧ decide (t.run = .ready) = true) :=
  ⟨⟨inv_of_ready _ rfl (by decide) rfl (by decide) (by decide), exists_next _ (by decide)⟩, ⟨waiting_inv _ _, exists_next _ (by decide)⟩⟩

/-- The same two states: the invariant and a next state. -/
theorem witness_InvariantIsKept :
    ((boot [4, 3, 99, 1337]).Inv ∧ ∃ t, step (boot [4, 3, 99, 1337]) = .next t ∧ decide (t.run = .ready) = true) ∧
    ((waiting Params.default [3, 0, 99] [.word 7]).Inv ∧
      ∃ t, step (waiting Params.default [3, 0, 99] [.word 7]) = .next t ∧ decide (t.run = .ready) = true) :=
  witness_RunStateTransitions

/-- What the first clause of R22's statement asks, for an image whose first word is `i`. -/
def completesAtReset (image : List Word) (i : Instr) : Prop :=
  (boot image).run = .ready ∧ (boot image).runEnable = true ∧ fetchInstr (boot image) = .ok i ∧
    ∃ t, step (boot image) = .next t ∧ decide (t.run ≠ .faulted) = true

/-- One image for each instruction, the jumps taken and not taken; a completion of INPUT; a fatal stop. -/
theorem witness_PcAfterEachInstruction :
    completesAtReset [1, 0, 0, 0, 99] (.add .position .position .position) ∧
    completesAtReset [1002, 4, 3, 4, 33] (.mul .position .immediate .position) ∧
    completesAtReset [7, 0, 4, 5, 99] (.lt .position .position .position) ∧
    completesAtReset [8, 0, 0, 0, 99] (.eq .position .position .position) ∧
    completesAtReset [3, 0, 99] (.input .position .position .position) ∧
    completesAtReset [104, 5, 99] (.output .immediate .position .position) ∧
    completesAtReset [109, 19, 99] (.setRb .immediate .position .position) ∧
    completesAtReset [1199] (.halt .immediate .immediate .position) ∧
    completesAtReset [1105, 1, 0] (.jnz .immediate .immediate .position) ∧
    completesAtReset [1105, 0, wrap64 (-7), 99] (.jnz .immediate .immediate .position) ∧
    completesAtReset [1106, 0, 4, 99] (.jz .immediate .immediate .position) ∧
    completesAtReset [1006, 3, wrap64 (-1), 5, 99] (.jz .position .immediate .position) ∧
    ((waiting Params.default [3, 0, 99] [.word 7]).run = .awaitingInput ∧
      ∃ t, step (waiting Params.default [3, 0, 99] [.word 7]) = .next t ∧ decide (t.run = .ready) = true) ∧
    (∃ t, step (boot []) = .next t ∧ decide (t.run = .faulted) = true) := by
  refine ⟨?_, ?_, ?_, ?_, ?_, ?_, ?_, ?_, ?_, ?_, ?_, ?_, ⟨rfl, exists_next _ (by decide)⟩,
    exists_next _ (by decide)⟩ <;>
    exact ⟨rfl, rfl, by decide, exists_next _ (by decide)⟩

/-- RB1, its first step. -/
theorem witness_OnlySetRbChangesRb :
    ∃ t, step (boot [109, 19, 99]) = .next t ∧ decide (t.rb ≠ (boot [109, 19, 99]).rb) = true :=
  exists_next _ (by decide)

/-- A1 (an RRW store) and I2 (a completion of INPUT). -/
theorem witness_MemoryChangesOnlyAtDestination :
    (let s := boot [1101, 7, 3, 0, 99]
     s.mem.wf ∧ ∃ t, step s = .next t ∧ decide (t.mem.read 0 ≠ s.mem.read 0) = true) ∧
    (let s := waiting Params.default [203, 0, 99] [.word 77]
     s.mem.wf ∧ ∃ t, step s = .next t ∧ decide (t.mem.read 0 ≠ s.mem.read 0) = true) :=
  ⟨⟨by decide, exists_next _ (by decide)⟩, ⟨by decide, exists_next _ (by decide)⟩⟩

/-- A18: a store one past the image; the extent changes whatever the growth is. -/
theorem witness_ExtentGrowsOnlyByStores :
    ∃ t : State, step (boot [7, 0, 4, 5, 99]) = .next t ∧ t.ext ≠ (boot [7, 0, 4, 5, 99]).ext := by
  refine ⟨((boot [7, 0, 4, 5, 99]).storeWord 5 1).advance 4, rfl, ?_⟩
  have h := State.lt_ext_storeWord (boot [7, 0, 4, 5, 99]) 5 1
  have h5 : (boot [7, 0, 4, 5, 99]).ext = 5 := rfl
  simp only [State.advance_ext]
  omega

/-- A request, an output, and a step without an event. -/
theorem witness_ChannelEventsInProgramOrder :
    (∃ t, step (boot [3, 0, 99]) = .next t ∧ decide (t.io = [.request]) = true) ∧
    (∃ t, step (boot [104, 5, 99]) = .next t ∧ decide (t.io = [.out 5]) = true) ∧
    (∃ t, step (boot [99]) = .next t ∧ decide (t.io = []) = true) :=
  ⟨exists_next _ (by decide), exists_next _ (by decide), exists_next _ (by decide)⟩

/-- P4 (the result 99 is HALT), the same with the result 0, which decodes to nothing, and for INPUT `3,2,0` in both
variants of the check: the host's word 99 lands at PC + 2. -/
theorem witness_StoreIsSeenByNextFetch :
    (let s := boot [1101, 50, 49, 4, 0]
     s.run = .ready ∧ s.runEnable = true ∧ s.mem.wf ∧
      fetchInstr s = .ok (.add .immediate .immediate .position) ∧ readOperand s 1 .immediate = .ok 50 ∧
      readOperand s 2 .immediate = .ok 49 ∧ writeAddress s 3 .position = .ok 4 ∧
      Params.capAllows s.params (4 : Word).toNat = true ∧
      Instr.rrwResult (.add .immediate .immediate .position) 50 49 = some 99 ∧
      (4 : Word) = wrap64 (s.pc.toInt + 4) ∧
      decode s.params.strictUpperDigits 99 = .ok (.halt .position .position .position)) ∧
    (let s := boot [1107, 5, 5, 4, 99]
     s.mem.wf ∧ fetchInstr s = .ok (.lt .immediate .immediate .position) ∧ readOperand s 1 .immediate = .ok 5 ∧
      readOperand s 2 .immediate = .ok 5 ∧ writeAddress s 3 .position = .ok 4 ∧
      Instr.rrwResult (.lt .immediate .immediate .position) 5 5 = some 0 ∧
      decode s.params.strictUpperDigits 0 = .error .unknownOpcode) ∧
    (let s : State := { waiting Params.default [3, 2, 0] [.word 99] with dst := 2 }
     s.run = .awaitingInput ∧ s.runEnable = true ∧ s.mem.wf ∧ s.inAnswers = [.word 99] ∧
      s.params.inputFaultBeforeRequest = true ∧ s.dst = 2 ∧ 0 ≤ (2 : Word).toInt ∧
      Params.capAllows s.params (2 : Word).toNat = true ∧ (2 : Word) = wrap64 (s.pc.toInt + 2)) ∧
    (let s := waiting deferred [3, 2, 0] [.word 99]
     s.run = .awaitingInput ∧ s.runEnable = true ∧ s.mem.wf ∧ s.inAnswers = [.word 99] ∧
      s.params.inputFaultBeforeRequest = false ∧ fetchInstr s = .ok (.input .position .position .position) ∧
      writeAddress s 1 .position = .ok 2 ∧ Params.capAllows s.params (2 : Word).toNat = true ∧
      (2 : Word) = wrap64 (s.pc.toInt + 2)) := by decide

/-- A20 and I1; the deferred variant is no case of the second. -/
theorem witness_ImmediateWriteNeverCompletes :
    (Instr.wellFormed (.add .position .position .immediate) = false ∧
      Instr.isRRW (.add .position .position .immediate) = true ∧
      readOperand (boot [10001, 0, 0, 0, 99]) 1 .position = .ok 10001 ∧
      readOperand (boot [10001, 0, 0, 0, 99]) 2 .position = .ok 10001 ∧
      paramWord (boot [10001, 0, 0, 0, 99]) 3 = .ok 0) ∧
    (Instr.wellFormed (.input .immediate .position .position) = false ∧
      (boot [103, 0, 99]).params.inputFaultBeforeRequest = true ∧
      Instr.opcode (.input .immediate .position .position) = .input ∧
      paramWord (boot [103, 0, 99]) 1 = .ok 0) := by decide

/-- The last address, inside and outside the image. -/
theorem witness_ResetLoadsImage : 0 < Config.addrLimit ∧ 9223372036854775807 < Config.addrLimit := by decide

/-- A word 0 below EXT and one at the last address; J11, its second step at PC 100, and PC at the extent exactly. -/
theorem witness_UntouchedMemoryIsDecodeError :
    (let s : State := { boot [1105, 1, 100, 0, 5] with pc := 3 }
     s.run = .ready ∧ s.runEnable = true ∧ 0 ≤ s.pc.toInt ∧ s.mem.read s.pc.toNat = 0 ∧ s.pc.toNat < s.ext) ∧
    (let s : State := { boot [99] with pc := 9223372036854775807 }
     s.run = .ready ∧ s.runEnable = true ∧ 0 ≤ s.pc.toInt ∧ s.mem.read s.pc.toNat = 0) ∧
    (let s : State := { boot [1105, 1, 100] with pc := 3 }
     s.Inv ∧ s.run = .ready ∧ s.runEnable = true ∧ 0 ≤ s.pc.toInt ∧ s.ext ≤ s.pc.toNat) ∧
    (let s : State := { boot [1105, 1, 100] with pc := 100 }
     s.Inv ∧ s.run = .ready ∧ s.runEnable = true ∧ 0 ≤ s.pc.toInt ∧ s.ext ≤ s.pc.toNat) :=
  ⟨by decide, by decide, ⟨inv_of_ready _ rfl (by decide) rfl (by decide) (by decide), rfl, rfl, by decide, by decide⟩,
   inv_of_ready _ rfl (by decide) rfl (by decide) (by decide), rfl, rfl, by decide, by decide⟩

theorem witness_PausedCoreHolds :
    (hostRun (boot [99]) false).run = .ready ∧ (hostRun (boot [99]) false).runEnable = false := ⟨rfl, rfl⟩

/-- A running core, address -1, a halted core, a paused core. -/
theorem witness_DebugReadHasLoadSemantics :
    ((boot [99]).run = .ready ∧ (boot [99]).runEnable = true) ∧ (wrap64 (-1)).toInt < 0 ∧
    ({ boot [99] with run := .halted } : State).run ≠ .ready ∧ (hostRun (boot [99]) false).runEnable = false := by
  decide

/-- S2 over two steps: it never waits, and it has a state after them. -/
theorem witness_RunWithoutWaitingIgnoresInput :
    (∀ k, k < 2 → ∀ u : State, Host.Core.run Sys2Proof.core k (boot [4, 3, 99, 1337]) = .next u →
      u.run ≠ .awaitingInput) ∧
    ∃ t : State, Host.Core.run Sys2Proof.core 2 (boot [4, 3, 99, 1337]) = .next t := by
  have h0 : nextMeets (fun u => decide (u.run ≠ .awaitingInput))
      (Host.Core.run Sys2Proof.core 0 (boot [4, 3, 99, 1337])) = true := by decide
  have h1 : nextMeets (fun u => decide (u.run ≠ .awaitingInput))
      (Host.Core.run Sys2Proof.core 1 (boot [4, 3, 99, 1337])) = true := by decide
  refine ⟨fun k hk u hu => ?_, ?_⟩
  · obtain rfl | rfl : k = 0 ∨ k = 1 := by omega
    · exact of_decide_eq_true (meets_of_next (p := fun u => decide (u.run ≠ .awaitingInput)) h0 hu)
    · exact of_decide_eq_true (meets_of_next (p := fun u => decide (u.run ≠ .awaitingInput)) h1 hu)
  · obtain ⟨t, ht, -⟩ := exists_next (o := Host.Core.run Sys2Proof.core 2 (boot [4, 3, 99, 1337])) (fun _ => true)
      (by decide)
    exact ⟨t, ht⟩

/-- One state for each cause: X1 (ERR 1), H4 (ERR 2), W2's last step and J1 (ERR 3), I1 (ERR 4), I7 (ERR 5). -/
theorem witness_FaultRecordsItsCause :
    ((boot [42]).Inv ∧ ∃ t, step (boot [42]) = .next t ∧ decide (t.run = .faulted ∧ t.err = 1) = true) ∧
    ((boot [399]).Inv ∧ ∃ t, step (boot [399]) = .next t ∧
      decide (t.run = .faulted ∧ t.err = 2 ∧ t.eslot = 1) = true) ∧
    (let s : State := { boot [99] with pc := wrap64 (-9223372036854775808) }
     s.Inv ∧ ∃ t, step s = .next t ∧ decide (t.run = .faulted ∧ t.err = 3 ∧ t.eslot = 0) = true) ∧
    ((boot [1105, 1, wrap64 (-7)]).Inv ∧ ∃ t, step (boot [1105, 1, wrap64 (-7)]) = .next t ∧
      decide (t.run = .faulted ∧ t.err = 3 ∧ t.eslot = 2) = true) ∧
    ((boot [103, 0, 99]).Inv ∧ ∃ t, step (boot [103, 0, 99]) = .next t ∧
      decide (t.run = .faulted ∧ t.err = 4 ∧ t.eslot = 1) = true) ∧
    ((waiting withIoErrors [3, 0, 99] [.error]).Inv ∧
      ∃ t, step (waiting withIoErrors [3, 0, 99] [.error]) = .next t ∧
        decide (t.run = .faulted ∧ t.err = 5) = true) :=
  ⟨⟨inv_of_ready _ rfl (by decide) rfl (by decide) (by decide), exists_next _ (by decide)⟩,
   ⟨inv_of_ready _ rfl (by decide) rfl (by decide) (by decide), exists_next _ (by decide)⟩,
   ⟨inv_of_ready _ rfl (by decide) rfl (by decide) (by decide), exists_next _ (by decide)⟩,
   ⟨inv_of_ready _ rfl (by decide) rfl (by decide) (by decide), exists_next _ (by decide)⟩,
   ⟨inv_of_ready _ rfl (by decide) rfl (by decide) (by decide), exists_next _ (by decide)⟩,
   ⟨waiting_inv _ _, exists_next _ (by decide)⟩⟩

theorem witness_ParametersNeverChange :
    ∃ t, step (bootImage withIoErrors [109, 19, 99]) = .next t ∧ decide (t.run = .ready) = true :=
  exists_next _ (by decide)

/-- A FAULTED state that meets the invariant (P5's end state), and one that is not FAULTED. -/
theorem witness_StatusPortsShowTheState :
    (let s : State := { boot [1101, 1, 1, wrap64 (-5), 99] with
        run := .faulted, err := 3, einfo := wrap64 (-5), eslot := 3 }
     s.run = .faulted ∧ s.Inv) ∧
    (boot [99]).run ≠ .faulted := by
  refine ⟨⟨rfl, ?_⟩, by decide⟩
  exact ⟨fun h => (by cases h), fun h => (by cases h), fun h => (by cases h), by decide, by decide, by decide⟩

/-- RB1, forked after one step and after none. -/
theorem witness_ForkIgnoresTheRunningCore :
    (∃ u : State, Host.Core.run Sys2Proof.core 1 (boot [109, 19, 99]) = .next u ∧ decide (u.rb = 19) = true) ∧
    Host.Core.run Sys2Proof.core 0 (boot [109, 19, 99]) = .next (boot [109, 19, 99]) ∧ 0 < Config.addrLimit :=
  ⟨exists_next _ (by decide), rfl, by decide⟩

/-- A step of A1 stores at 0 and at no other address, such as 1 in the image and 4000 beyond it. -/
theorem witness_NeverStoredWordsReadAsAtReset (a : Nat) (ha : a ≠ 0) :
    (∀ k, k < 1 → ∀ x y : State,
      Host.Core.run Sys2Proof.core k (hostReset State.reset [1101, 7, 3, 0, 99]) = .next x →
      step x = .next y → ¬ StoresAt x y a) ∧
    ∃ u : State, Host.Core.run Sys2Proof.core 1 (hostReset State.reset [1101, 7, 3, 0, 99]) = .next u ∧
      decide (u.mem.read 0 = 10) = true := by
  refine ⟨fun k hk x y hx _ => ?_, exists_next _ (by decide)⟩
  obtain rfl : k = 0 := by omega
  cases hx
  rintro (⟨-, -, -, i, d, hf, -, hw, had⟩ | ⟨hr, -, -⟩)
  · have hi : fetchInstr (hostReset State.reset [1101, 7, 3, 0, 99]) =
        .ok (.add .immediate .immediate .position) := by decide
    have hd : writeAddress (hostReset State.reset [1101, 7, 3, 0, 99]) 3 .position = .ok 0 := by decide
    cases hi.symm.trans hf
    cases hd.symm.trans hw
    exact ha had
  · cases hr

/-- R191: the ports of a waiting, a halted and a faulted core, and the words received. -/
theorem test_ports :
    ports (waiting Params.default [3, 0, 99] []) = { runState := 1, inReq := true, error := none } ∧
    ports { boot [99] with run := .halted } = { runState := 2, inReq := false, error := none } ∧
    ports { boot [42] with run := .faulted, err := 1, einfo := 42 } =
      { runState := 3, inReq := false, error := some (1, 42, 0) } ∧
    State.outputs { boot [99] with io := [.request, .out 4, .out 9] } = [4, 9] := by decide

end Sys2Proof.Tests
end

