-- ==== Sys2Proof/Proofs/Scope.lean ====
section
/-! The statements of spec/00_scope.md: the narrowing `wrap64`, and the parameters and run level as the frame of every
step. The frame follows the model's inversion lemmas, from the effect of an instruction up to `step`. -/

namespace Sys2Proof

/-- R6 through the library's balanced residue. -/
theorem toInt_wrap64_eq_bmod (x : Int) : (wrap64 x).toInt = x.bmod 18446744073709551616 :=
  BitVec.toInt_ofInt x

/-- Settles O1: the balanced residue is the non-negative one, less 2^64 from 2^63 on. -/
theorem wrap64IsSignedResidue : Obligations.Wrap64IsSignedResidue := by
  intro x
  rw [toInt_wrap64_eq_bmod, Int.bmod_def]
  norm_num

end Sys2Proof

namespace Sys2Proof.Machine

open Sys2Proof

/-- One goal per shape of instruction: RRW, the jumps, OUTPUT, SET_RB, INPUT, HALT. -/
theorem Completed.sameHost {i : Instr} {s t : State} (h : Completed i s t) : SameHost s t := by
  obtain ⟨-, d, v, -, -, rfl⟩ | ⟨m1, m2, m3, a, b, -, -, hjump⟩ | ⟨m1, m2, m3, a, -, -, rfl⟩ |
    ⟨m1, m2, m3, a, -, -, rfl⟩ | ⟨m1, m2, m3, -, hinput⟩ | ⟨m1, m2, m3, -, rfl⟩ := h
  · simp [SameHost]
  · obtain ⟨-, ⟨-, -, rfl⟩ | ⟨-, rfl⟩⟩ | ⟨-, ⟨-, -, rfl⟩ | ⟨-, rfl⟩⟩ := hjump <;> simp [SameHost]
  · simp [SameHost]
  · simp [SameHost]
  · obtain ⟨-, d, -, rfl⟩ | ⟨-, rfl⟩ := hinput <;> simp [SameHost]
  · simp [SameHost]

/-- A fatal stop, a failed output transaction, or the instruction's own effect. -/
theorem exec_sameHost {i : Instr} {s t : State} (h : exec i s = .next t) : SameHost s t := by
  obtain ⟨e, -, rfl⟩ | ⟨m1, m2, m3, a, -, -, -, rfl⟩ | hdone := exec_cases h
  · simp [SameHost]
  · simp [SameHost]
  · exact hdone.sameHost

/-- Both variants of INPUT's completion step (R112). -/
theorem completeInput_sameHost {s t : State} {v : Word} (h : completeInput s v = .next t) : SameHost s t := by
  obtain ⟨e, -, rfl, -⟩ | ⟨d, -, -, -, rfl⟩ := completeInput_cases h <;> simp [SameHost]

/-- No answer or an ignored one, an error answer, or the completion (R112, R116, R119). -/
theorem awaitStep_sameHost {s t : State} (hrun : s.run = .awaitingInput) (h : awaitStep s = .next t) :
    SameHost s t := by
  obtain ⟨rest, rfl⟩ | ⟨rest, -, -, rfl⟩ | ⟨v, rest, -, hdone⟩ := awaitStep_cases hrun h
  · simp [SameHost]
  · simp [SameHost]
  · simpa [SameHost] using completeInput_sameHost hdone

/-- The frame of a step, by run state (R164). -/
theorem step_sameHost {s t : State} (h : step s = .next t) : SameHost s t := by
  obtain ⟨-, -, rfl⟩ | ⟨-, -, e, -, rfl⟩ | ⟨-, -, i, -, hexec⟩ | ⟨hrun, hawait⟩ | ⟨-, rfl⟩ | ⟨-, rfl⟩ :=
    step_cases h
  · exact ⟨rfl, rfl⟩
  · simp [SameHost]
  · exact exec_sameHost hexec
  · exact awaitStep_sameHost hrun hawait
  · exact ⟨rfl, rfl⟩
  · exact ⟨rfl, rfl⟩

/-- Settles O47, by the frame of `step`. -/
theorem parametersNeverChange : Obligations.ParametersNeverChange :=
  fun _ _ h => step_sameHost h

end Sys2Proof.Machine
end

section
/-! The statements of spec/10_state.md: the invariant, the frames of PC, RB, memory and EXT, reset, and the status
ports. Each frame is read off the model's inversion lemmas, from the effect of an instruction up to `step`. -/

namespace Sys2Proof.Machine

open Sys2Proof

/-! ### A PC from which the core may fetch next (R36 (a)) -/

/-- R36 (a): an address, or the one value that a sequential update past the last address gives. -/
def ReadyPc (v : Word) : Prop := 0 ≤ v.toInt ∨ v.toInt = -9223372036854775808

/-- Past the last address the narrowing is negative (R82). -/
theorem toInt_wrap64_of_overflow {x : Int} (hlow : 9223372036854775808 ≤ x) (hhigh : x < 18446744073709551616) :
    (wrap64 x).toInt = x - 18446744073709551616 := by
  have hres := wrap64IsSignedResidue x
  split at hres <;> omega

/-- Where the last of an instruction's `size` words, its parameter `k`, was fetched, the sequential update leads at most
one past the last address (R22, R23). -/
theorem readyPc_behind_param {s : State} {k : Slot} {p : Word} {size : Nat} (hpc : 0 ≤ s.pc.toInt)
    (hparam : paramWord s k = .ok p) (hsize : size = k.val + 1) : ReadyPc (wrap64 (s.pc.toInt + size)) := by
  subst hsize
  have hfetch := (paramWord_eq_ok.mp hparam).1
  have htop := (word_toInt_bounds s.pc).2
  have hk := k.isLt
  obtain hin | hlast | hover : s.pc.toInt + k.val + 1 < 9223372036854775808 ∨
      s.pc.toInt + k.val + 1 = 9223372036854775808 ∨ 9223372036854775808 ≤ s.pc.toInt + k.val := by omega
  · left
    rw [toInt_wrap64_of_range] <;> push_cast <;> omega
  · right
    rw [toInt_wrap64_of_overflow] <;> push_cast <;> omega
  · rw [toInt_wrap64_of_overflow hover (by omega)] at hfetch
    omega

/-- A write parameter that was evaluated was fetched (R85). -/
theorem writeAddress_param {s : State} {k : Slot} {m : Mode} {d : Word} (h : writeAddress s k m = .ok d) :
    ∃ p, paramWord s k = .ok p := by
  obtain ⟨p, hp, -⟩ := writeAddress_eq_ok.mp h
  exact ⟨p, hp⟩

/-! ### The invariant under each update

A step composes named updates of State, so the invariant is carried through them one by one. -/

section Invariant

variable {s t : State}

/-- Outside FAULTED no error is recorded (R36 (d)). -/
theorem State.Inv.err_eq_zero (hs : s.Inv) (hrun : s.run ≠ .faulted) : s.err = 0 := by
  by_contra herr
  exact hrun (hs.errIff.mp herr)

/-- What the invariant asks of a READY state. -/
theorem State.inv_iff_of_ready (hrun : s.run = .ready) :
    s.Inv ↔ ReadyPc s.pc ∧ s.err = 0 ∧ s.mem.wf ∧ ∀ c ∈ s.mem, c.1 < s.ext := by
  constructor
  · intro hs
    exact ⟨hs.readyPc hrun, hs.err_eq_zero (by simp [hrun]), hs.memWf, hs.extent⟩
  · rintro ⟨hpc, herr, hmem, hext⟩
    exact ⟨fun _ => hpc, by simp [hrun], by simp [hrun], by simp [hrun, herr], hmem, hext⟩

theorem State.Inv.fatalStop (hs : s.Inv) (e : FatalError) : (s.fatalStop e).Inv where
  readyPc h := by simp at h
  awaiting h := by simp at h
  halted h := by simp at h
  errIff := ⟨fun _ => rfl, fun _ => e.cause.code_ne_zero⟩
  memWf := hs.memWf
  extent := hs.extent

/-- The invariant does not speak of the host's coming answers. -/
theorem State.Inv.setInAnswers (hs : s.Inv) (answers : List InAnswer) : (s.setInAnswers answers).Inv :=
  ⟨hs.readyPc, hs.awaiting, hs.halted, hs.errIff, hs.memWf, hs.extent⟩

/-- The invariant does not speak of the output channel. -/
theorem State.Inv.presentWord (hs : s.Inv) (v : Word) : (presentWord s v).Inv :=
  ⟨hs.readyPc, hs.awaiting, hs.halted, hs.errIff, hs.memWf, hs.extent⟩

/-- In READY the invariant does not speak of RB. -/
theorem State.Inv.setRb (hs : s.Inv) (hrun : s.run = .ready) (v : Word) : (s.setRb v).Inv :=
  (State.inv_iff_of_ready (s := s.setRb v) hrun).mpr ((State.inv_iff_of_ready hrun).mp hs)

/-- In READY the invariant does not speak of DST (R30). -/
theorem State.Inv.setDst (hs : s.Inv) (hrun : s.run = .ready) (d : Word) : (s.setDst d).Inv :=
  (State.inv_iff_of_ready (s := s.setDst d) hrun).mpr ((State.inv_iff_of_ready hrun).mp hs)

theorem State.Inv.setPc (hs : s.Inv) (hrun : s.run = .ready) {v : Word} (hv : ReadyPc v) : (s.setPc v).Inv := by
  obtain ⟨-, herr, hmem, hext⟩ := (State.inv_iff_of_ready hrun).mp hs
  exact (State.inv_iff_of_ready (s := s.setPc v) hrun).mpr ⟨hv, herr, hmem, hext⟩

theorem State.Inv.advance (hs : s.Inv) (hrun : s.run = .ready) {size : Nat}
    (hnext : ReadyPc (wrap64 (s.pc.toInt + size))) : (s.advance size).Inv :=
  hs.setPc hrun hnext

/-- A store keeps the canonical form, and its address lies below the new extent (R29, R42). -/
theorem State.Inv.storeWord (hs : s.Inv) (hrun : s.run = .ready) {d : Word} (hd : 0 ≤ d.toInt) (v : Word) :
    (s.storeWord d.toNat v).Inv := by
  obtain ⟨hpc, herr, hmem, hext⟩ := (State.inv_iff_of_ready hrun).mp hs
  have hmem' := Memory.write_wf v hmem (toNat_lt_of_nonneg hd)
  refine (State.inv_iff_of_ready (s := s.storeWord d.toNat v) hrun).mpr ⟨hpc, herr, hmem', fun c hc => ?_⟩
  obtain ⟨rfl, -⟩ | hold := Memory.mem_write hc
  · exact s.lt_ext_storeWord d.toNat v
  · exact Nat.lt_of_lt_of_le (hext c hold) (s.ext_le_storeWord d.toNat v)

/-- A waiting core that returns to READY: its PC is that of an INPUT word (R36 (b)). -/
theorem State.Inv.wake (hs : s.Inv) (hrun : s.run = .awaitingInput) (d : Word) :
    ((s.setDst d).setRun .ready).Inv := by
  obtain ⟨m1, m2, m3, hfetch, -⟩ := hs.awaiting hrun
  exact (State.inv_iff_of_ready rfl).mpr
    ⟨.inl (fetchInstr_eq_ok.mp hfetch).1, hs.err_eq_zero (by simp [hrun]), hs.memWf, hs.extent⟩

/-- A request leaves the core at its INPUT word, with the destination latched under the early check (R111). -/
theorem State.Inv.requestInput (hs : s.Inv) (hrun : s.run = .ready) {m1 m2 m3 : Mode}
    (hfetch : fetchInstr s = .ok (.input m1 m2 m3))
    (hdst : s.params.inputFaultBeforeRequest = true → writeAddress s 1 m1 = .ok s.dst) :
    (requestInput s).Inv where
  readyPc h := by simp at h
  awaiting _ := by
    refine ⟨m1, m2, m3, hfetch, fun hearly => ?_⟩
    obtain ⟨p, -, hd, -⟩ := writeAddress_eq_ok.mp (hdst hearly)
    exact ⟨hd, hdst hearly⟩
  halted h := by simp at h
  errIff := by simp [hs.err_eq_zero, hrun]
  memWf := hs.memWf
  extent := hs.extent

theorem State.Inv.halt (hs : s.Inv) (hrun : s.run = .ready) {m1 m2 m3 : Mode}
    (hfetch : fetchInstr s = .ok (.halt m1 m2 m3)) : (s.setRun .halted).Inv where
  readyPc h := by simp at h
  awaiting h := by simp at h
  halted _ := ⟨m1, m2, m3, hfetch⟩
  errIff := by simp [hs.err_eq_zero, hrun]
  memWf := hs.memWf
  extent := hs.extent

/-! ### The invariant under a step -/

/-- One goal per shape of instruction: each goes on behind its last parameter, to a checked target, or stays. -/
theorem Completed.inv {i : Instr} (h : Completed i s t) (hs : s.Inv) (hrun : s.run = .ready)
    (hfetch : fetchInstr s = .ok i) : t.Inv := by
  have hpc := (fetchInstr_eq_ok.mp hfetch).1
  obtain ⟨-, d, v, hwrite, hd, rfl⟩ | ⟨m1, m2, m3, a, b, -, hb, hjump⟩ | ⟨m1, m2, m3, a, -, ha, rfl⟩ |
    ⟨m1, m2, m3, a, -, ha, rfl⟩ | ⟨m1, m2, m3, rfl, hinput⟩ | ⟨m1, m2, m3, rfl, rfl⟩ := h
  · obtain ⟨p, hp⟩ := writeAddress_param hwrite
    have hnext := readyPc_behind_param (size := 4) hpc hp rfl
    exact (hs.storeWord hrun hd v).advance hrun hnext
  · obtain ⟨p, hp⟩ := readOperand_param hb
    have hnext : (s.advance 3).Inv := hs.advance hrun (readyPc_behind_param hpc hp rfl)
    obtain ⟨-, ⟨-, htarget, rfl⟩ | ⟨-, rfl⟩⟩ | ⟨-, ⟨-, htarget, rfl⟩ | ⟨-, rfl⟩⟩ := hjump
    · exact hs.setPc hrun (.inl htarget)
    · exact hnext
    · exact hs.setPc hrun (.inl htarget)
    · exact hnext
  · obtain ⟨p, hp⟩ := readOperand_param ha
    have hnext := readyPc_behind_param (size := 2) hpc hp rfl
    exact (hs.presentWord a).advance hrun hnext
  · obtain ⟨p, hp⟩ := readOperand_param ha
    have hnext := readyPc_behind_param (size := 2) hpc hp rfl
    exact (hs.setRb hrun (wrap64 (s.rb.toInt + a.toInt))).advance hrun hnext
  · obtain ⟨-, d, hd, rfl⟩ | ⟨hlate, rfl⟩ := hinput
    · exact (hs.setDst hrun d).requestInput hrun hfetch fun _ => hd
    · exact hs.requestInput hrun hfetch (by simp [hlate])
  · exact hs.halt hrun hfetch

theorem exec_inv {i : Instr} (h : exec i s = .next t) (hs : s.Inv) (hrun : s.run = .ready)
    (hfetch : fetchInstr s = .ok i) : t.Inv := by
  obtain ⟨e, -, rfl⟩ | ⟨m1, m2, m3, a, -, -, -, rfl⟩ | hdone := exec_cases h
  · exact hs.fatalStop e
  · exact (hs.presentWord a).fatalStop ioFatal
  · exact hdone.inv hs hrun hfetch

/-- The parameter of the INPUT at PC has been fetched in both variants, by the request (R36 (b)) or just now (R112). -/
theorem completeInput_inv {v : Word} (h : completeInput s v = .next t) (hs : s.Inv) (hrun : s.run = .awaitingInput) :
    t.Inv := by
  obtain ⟨e, -, rfl, -⟩ | ⟨d, hdest, hd, -, rfl⟩ := completeInput_cases h
  · exact hs.fatalStop e
  · obtain ⟨m1, m2, m3, hfetch, hlatched⟩ := hs.awaiting hrun
    obtain ⟨p, hp⟩ : ∃ p, paramWord s 1 = .ok p := by
      obtain ⟨hearly, -⟩ | ⟨-, hnow⟩ := hdest
      · exact writeAddress_param (hlatched hearly).2
      · obtain ⟨i, -, hwrite⟩ := deferredDest_eq_ok.mp hnow
        exact writeAddress_param hwrite
    have hnext := readyPc_behind_param (size := 2) (fetchInstr_eq_ok.mp hfetch).1 hp rfl
    exact ((hs.wake hrun d).storeWord rfl hd v).advance rfl hnext

theorem awaitStep_inv (h : awaitStep s = .next t) (hs : s.Inv) (hrun : s.run = .awaitingInput) : t.Inv := by
  obtain ⟨rest, rfl⟩ | ⟨rest, -, -, rfl⟩ | ⟨v, rest, -, hdone⟩ := awaitStep_cases hrun h
  · exact hs.setInAnswers rest
  · exact (hs.setInAnswers rest).fatalStop ioFatal
  · exact completeInput_inv hdone (hs.setInAnswers rest) hrun

end Invariant

/-- Settles O39, by run state (R164). -/
theorem invariantIsKept : Obligations.InvariantIsKept := by
  intro s t hs h
  obtain ⟨-, -, rfl⟩ | ⟨-, -, e, -, rfl⟩ | ⟨hrun, -, i, hfetch, hexec⟩ | ⟨hrun, hawait⟩ | ⟨-, rfl⟩ | ⟨-, rfl⟩ :=
    step_cases h
  · exact hs
  · exact hs.fatalStop e
  · exact exec_inv hexec hs hrun hfetch
  · exact awaitStep_inv hawait hs hrun
  · exact hs
  · exact hs

/-! ### Reset (R35, R180) -/

/-- Settles O41: the image lies below EXT, in canonical form. -/
theorem imageLoadMeetsInvariant : Obligations.ImageLoadMeetsInvariant := by
  intro s image
  refine (State.inv_iff_of_ready rfl).mpr ⟨.inl (Int.le_refl 0), rfl, Memory.ofImage_wf 0 image, fun c hc => ?_⟩
  obtain ⟨-, hlt⟩ := Memory.mem_ofImage hc
  show c.1 < image.length
  omega

/-- Settles O40: `State.reset` is the reset with the empty image (R183). -/
theorem invariantHoldsAtReset : Obligations.InvariantHoldsAtReset :=
  imageLoadMeetsInvariant State.reset []

/-- What a reset with an image leaves at every address (R35). -/
theorem read_hostReset (s : State) (image : List Word) {a : Nat} (ha : a < Config.addrLimit) :
    (hostReset s image).mem.read a = image.getD a 0 :=
  Memory.read_ofImage image ha (Nat.zero_le a)

/-- Settles O42: the registers by definition, memory by the law of an image load. -/
theorem resetLoadsImage : Obligations.ResetLoadsImage :=
  fun s image => ⟨rfl, rfl, rfl, rfl, rfl, rfl, fun _ ha => read_hostReset s image ha⟩

/-! ### PC (R22) -/

section ProgramCounter

variable {s t : State}

/-- A completed instruction leaves a READY core in READY, AWAITING_INPUT or HALTED. -/
theorem Completed.run_ne_faulted {i : Instr} (h : Completed i s t) (hrun : s.run = .ready) : t.run ≠ .faulted := by
  obtain ⟨-, d, v, -, -, rfl⟩ | ⟨m1, m2, m3, a, b, -, -, hjump⟩ | ⟨m1, m2, m3, a, -, -, rfl⟩ |
    ⟨m1, m2, m3, a, -, -, rfl⟩ | ⟨m1, m2, m3, -, hinput⟩ | ⟨m1, m2, m3, -, rfl⟩ := h
  · simp [hrun]
  · obtain ⟨-, ⟨-, -, rfl⟩ | ⟨-, rfl⟩⟩ | ⟨-, ⟨-, -, rfl⟩ | ⟨-, rfl⟩⟩ := hjump <;> simp [hrun]
  · simp [hrun]
  · simp [hrun]
  · obtain ⟨-, d, -, rfl⟩ | ⟨-, rfl⟩ := hinput <;> simp
  · simp

/-- A step of `exec` that does not fault completes the instruction. -/
theorem exec_completed {i : Instr} (h : exec i s = .next t) (ht : t.run ≠ .faulted) : Completed i s t := by
  obtain ⟨e, -, rfl⟩ | ⟨m1, m2, m3, a, -, -, -, rfl⟩ | hdone := exec_cases h
  · exact absurd rfl ht
  · exact absurd rfl ht
  · exact hdone

/-- R22: a fatal error of an instruction leaves PC unchanged. -/
theorem exec_pc_of_faulted {i : Instr} (h : exec i s = .next t) (hrun : s.run = .ready) (ht : t.run = .faulted) :
    t.pc = s.pc := by
  obtain ⟨e, -, rfl⟩ | ⟨m1, m2, m3, a, -, -, -, rfl⟩ | hdone := exec_cases h
  · rfl
  · rfl
  · exact absurd ht (hdone.run_ne_faulted hrun)

/-- A waiting step that ends READY has completed the INPUT (R112). -/
theorem awaitStep_pc_of_ready (h : awaitStep s = .next t) (hrun : s.run = .awaitingInput) (ht : t.run = .ready) :
    t.pc = wrap64 (s.pc.toInt + 2) := by
  obtain ⟨rest, rfl⟩ | ⟨rest, -, -, rfl⟩ | ⟨v, rest, -, hdone⟩ := awaitStep_cases hrun h
  · simp [hrun] at ht
  · simp at ht
  · obtain ⟨e, -, rfl, -⟩ | ⟨d, -, -, -, rfl⟩ := completeInput_cases hdone
    · simp at ht
    · simp

/-- R22 for a waiting core, where only the completion moves PC. -/
theorem awaitStep_pc_of_faulted (h : awaitStep s = .next t) (hrun : s.run = .awaitingInput) (ht : t.run = .faulted) :
    t.pc = s.pc := by
  obtain ⟨rest, rfl⟩ | ⟨rest, -, -, rfl⟩ | ⟨v, rest, -, hdone⟩ := awaitStep_cases hrun h
  · rfl
  · rfl
  · obtain ⟨e, -, rfl, -⟩ | ⟨d, -, -, -, rfl⟩ := completeInput_cases hdone
    · rfl
    · simp at ht

/-- R22: every faulting step leaves PC unchanged. -/
theorem step_pc_of_faulted (h : step s = .next t) (ht : t.run = .faulted) : t.pc = s.pc := by
  obtain ⟨-, -, rfl⟩ | ⟨-, -, e, -, rfl⟩ | ⟨hrun, -, i, -, hexec⟩ | ⟨hrun, hawait⟩ | ⟨-, rfl⟩ | ⟨-, rfl⟩ :=
    step_cases h
  · rfl
  · rfl
  · exact exec_pc_of_faulted hexec hrun ht
  · exact awaitStep_pc_of_faulted hawait hrun ht
  · rfl
  · rfl

end ProgramCounter

/-- Settles O32: the table by the shape of the completed instruction, then the completion of INPUT and the faults. -/
theorem pcAfterEachInstruction : Obligations.PcAfterEachInstruction := by
  refine ⟨?_, fun s t hrun h ht => awaitStep_pc_of_ready (step_of_awaiting hrun ▸ h) hrun ht,
    fun s t h ht => step_pc_of_faulted h ht⟩
  intro s t i hrun hen hfetch h ht
  rw [step_of_ready hrun hen, cycle_of_fetch hfetch] at h
  obtain ⟨hrrw, d, v, -, -, rfl⟩ | ⟨m1, m2, m3, a, b, ha, hb, hjump⟩ | ⟨m1, m2, m3, a, rfl, -, rfl⟩ |
    ⟨m1, m2, m3, a, rfl, -, rfl⟩ | ⟨m1, m2, m3, rfl, hinput⟩ | ⟨m1, m2, m3, rfl, rfl⟩ := exec_completed h ht
  · cases i with
    | add _ _ _ | mul _ _ _ | lt _ _ _ | eq _ _ _ => rfl
    | input _ _ _ | output _ _ _ | jnz _ _ _ | jz _ _ _ | setRb _ _ _ | halt _ _ _ => cases hrrw
  · obtain ⟨rfl, heffect⟩ | ⟨rfl, heffect⟩ := hjump
    · refine ⟨a, b, ha, hb, ?_⟩
      obtain ⟨hne, htarget, rfl⟩ | ⟨hzero, rfl⟩ := heffect
      · exact .inl ⟨hne, htarget, rfl⟩
      · exact .inr ⟨hzero, rfl⟩
    · refine ⟨a, b, ha, hb, ?_⟩
      obtain ⟨hzero, htarget, rfl⟩ | ⟨hne, rfl⟩ := heffect
      · exact .inl ⟨hzero, htarget, rfl⟩
      · exact .inr ⟨hne, rfl⟩
  · rfl
  · rfl
  · obtain ⟨-, d, -, rfl⟩ | ⟨-, rfl⟩ := hinput <;> rfl
  · rfl

/-! ### RB (R24) -/

section RelativeBase

variable {s t : State}

/-- Of the instructions only SET_RB writes RB (R24, R90). -/
theorem Completed.rb_cases {i : Instr} (h : Completed i s t) :
    t.rb = s.rb ∨ ∃ m1 m2 m3 a, i = .setRb m1 m2 m3 ∧ readOperand s 1 m1 = .ok a ∧
      t.rb = wrap64 (s.rb.toInt + a.toInt) := by
  obtain ⟨-, d, v, -, -, rfl⟩ | ⟨m1, m2, m3, a, b, -, -, hjump⟩ | ⟨m1, m2, m3, a, -, -, rfl⟩ |
    ⟨m1, m2, m3, a, hi, ha, rfl⟩ | ⟨m1, m2, m3, -, hinput⟩ | ⟨m1, m2, m3, -, rfl⟩ := h
  · exact .inl rfl
  · obtain ⟨-, ⟨-, -, rfl⟩ | ⟨-, rfl⟩⟩ | ⟨-, ⟨-, -, rfl⟩ | ⟨-, rfl⟩⟩ := hjump <;> exact .inl rfl
  · exact .inl rfl
  · exact .inr ⟨m1, m2, m3, a, hi, ha, rfl⟩
  · obtain ⟨-, d, -, rfl⟩ | ⟨-, rfl⟩ := hinput <;> exact .inl rfl
  · exact .inl rfl

theorem exec_rb_cases {i : Instr} (h : exec i s = .next t) :
    t.rb = s.rb ∨ ∃ m1 m2 m3 a, i = .setRb m1 m2 m3 ∧ readOperand s 1 m1 = .ok a ∧
      t.rb = wrap64 (s.rb.toInt + a.toInt) := by
  obtain ⟨e, -, rfl⟩ | ⟨m1, m2, m3, a, -, -, -, rfl⟩ | hdone := exec_cases h
  · exact .inl rfl
  · exact .inl rfl
  · exact hdone.rb_cases

theorem awaitStep_rb (h : awaitStep s = .next t) (hrun : s.run = .awaitingInput) : t.rb = s.rb := by
  obtain ⟨rest, rfl⟩ | ⟨rest, -, -, rfl⟩ | ⟨v, rest, -, hdone⟩ := awaitStep_cases hrun h
  · rfl
  · rfl
  · obtain ⟨e, -, rfl, -⟩ | ⟨d, -, -, -, rfl⟩ := completeInput_cases hdone <;> rfl

end RelativeBase

/-- Settles O33: every other step leaves RB. -/
theorem onlySetRbChangesRb : Obligations.OnlySetRbChangesRb := by
  intro s t h hrb
  obtain ⟨-, -, rfl⟩ | ⟨-, -, e, -, rfl⟩ | ⟨hrun, hen, i, hfetch, hexec⟩ | ⟨hrun, hawait⟩ | ⟨-, rfl⟩ | ⟨-, rfl⟩ :=
    step_cases h
  · exact absurd rfl hrb
  · exact absurd rfl hrb
  · obtain hsame | ⟨m1, m2, m3, a, rfl, ha, hval⟩ := exec_rb_cases hexec
    · exact absurd hsame hrb
    · exact ⟨hrun, hen, m1, m2, m3, a, hfetch, ha, hval⟩
  · exact absurd (awaitStep_rb hawait hrun) hrb
  · exact absurd rfl hrb
  · exact absurd rfl hrb

/-! ### Memory and EXT (R28, R29) -/

section Stores

variable {s t : State}

/-- The destination of a completing instruction of format RRW (R100). -/
def RrwDest (s : State) (d : Word) : Prop :=
  ∃ i, fetchInstr s = .ok i ∧ i.isRRW = true ∧ writeAddress s 3 i.modes.2.2 = .ok d

/-- The step from `s` to `t` is a store of `v` at `d`, by an instruction of format RRW (R100) or by the completion of an
INPUT (R112), and has no other effect on memory and EXT. -/
structure StepStores (s t : State) (d v : Word) : Prop where
  mem : t.mem = s.mem.write d.toNat v
  ext : t.ext = (s.storeWord d.toNat v).ext
  ready : t.run = .ready
  source : (s.run = .ready ∧ s.runEnable = true ∧ RrwDest s d) ∨
    (s.run = .awaitingInput ∧ t.dst = d ∧ ∃ rest, s.inAnswers = .word v :: rest)

theorem Completed.store_cases {i : Instr} (h : Completed i s t) :
    (t.mem = s.mem ∧ t.ext = s.ext) ∨
    (i.isRRW = true ∧ ∃ d v, writeAddress s 3 i.modes.2.2 = .ok d ∧ t = (s.storeWord d.toNat v).advance 4) := by
  obtain ⟨hrrw, d, v, hd, -, ht⟩ | ⟨m1, m2, m3, a, b, -, -, hjump⟩ | ⟨m1, m2, m3, a, -, -, rfl⟩ |
    ⟨m1, m2, m3, a, -, -, rfl⟩ | ⟨m1, m2, m3, -, hinput⟩ | ⟨m1, m2, m3, -, rfl⟩ := h
  · exact .inr ⟨hrrw, d, v, hd, ht⟩
  · obtain ⟨-, ⟨-, -, rfl⟩ | ⟨-, rfl⟩⟩ | ⟨-, ⟨-, -, rfl⟩ | ⟨-, rfl⟩⟩ := hjump <;> exact .inl ⟨rfl, rfl⟩
  · exact .inl ⟨rfl, rfl⟩
  · exact .inl ⟨rfl, rfl⟩
  · obtain ⟨-, d, -, rfl⟩ | ⟨-, rfl⟩ := hinput <;> exact .inl ⟨rfl, rfl⟩
  · exact .inl ⟨rfl, rfl⟩

theorem exec_store_cases {i : Instr} (h : exec i s = .next t) (hrun : s.run = .ready) (hen : s.runEnable = true)
    (hfetch : fetchInstr s = .ok i) : (t.mem = s.mem ∧ t.ext = s.ext) ∨ ∃ d v, StepStores s t d v := by
  obtain ⟨e, -, rfl⟩ | ⟨m1, m2, m3, a, -, -, -, rfl⟩ | hdone := exec_cases h
  · exact .inl ⟨rfl, rfl⟩
  · exact .inl ⟨rfl, rfl⟩
  · obtain hsame | ⟨hrrw, d, v, hd, rfl⟩ := hdone.store_cases
    · exact .inl hsame
    · exact .inr ⟨d, v, rfl, rfl, hrun, .inl ⟨hrun, hen, i, hfetch, hrrw, hd⟩⟩

theorem awaitStep_store_cases (h : awaitStep s = .next t) (hrun : s.run = .awaitingInput) :
    (t.mem = s.mem ∧ t.ext = s.ext) ∨ ∃ d v, StepStores s t d v := by
  obtain ⟨rest, rfl⟩ | ⟨rest, -, -, rfl⟩ | ⟨v, rest, hans, hdone⟩ := awaitStep_cases hrun h
  · exact .inl ⟨rfl, rfl⟩
  · exact .inl ⟨rfl, rfl⟩
  · obtain ⟨e, -, rfl, -⟩ | ⟨d, -, -, -, rfl⟩ := completeInput_cases hdone
    · exact .inl ⟨rfl, rfl⟩
    · exact .inr ⟨d, v, rfl, rfl, rfl, .inr ⟨hrun, rfl, rest, hans⟩⟩

/-- R28, R44: a step leaves memory and EXT, or it is one store. -/
theorem step_store_cases (h : step s = .next t) :
    (t.mem = s.mem ∧ t.ext = s.ext) ∨ ∃ d v, StepStores s t d v := by
  obtain ⟨-, -, rfl⟩ | ⟨-, -, e, -, rfl⟩ | ⟨hrun, hen, i, hfetch, hexec⟩ | ⟨hrun, hawait⟩ | ⟨-, rfl⟩ | ⟨-, rfl⟩ :=
    step_cases h
  · exact .inl ⟨rfl, rfl⟩
  · exact .inl ⟨rfl, rfl⟩
  · exact exec_store_cases hexec hrun hen hfetch
  · exact awaitStep_store_cases hawait hrun
  · exact .inl ⟨rfl, rfl⟩
  · exact .inl ⟨rfl, rfl⟩

theorem StepStores.read_other {d v : Word} (h : StepStores s t d v) {a : Nat} (ha : a ≠ d.toNat) :
    t.mem.read a = s.mem.read a := by
  rw [h.mem, Memory.read_write_other _ _ _ _ ha]

theorem StepStores.read_dest {d v : Word} (h : StepStores s t d v) (hmem : s.mem.wf) :
    t.mem.read d.toNat = v := by
  rw [h.mem, Memory.read_write_same _ _ _ hmem]

theorem StepStores.ext_le {d v : Word} (h : StepStores s t d v) : s.ext ≤ t.ext :=
  h.ext ▸ s.ext_le_storeWord d.toNat v

theorem StepStores.dest_lt_ext {d v : Word} (h : StepStores s t d v) : d.toNat < t.ext :=
  h.ext ▸ s.lt_ext_storeWord d.toNat v

theorem StepStores.ext_le_dest {d v : Word} (h : StepStores s t d v) (hext : t.ext ≠ s.ext) : s.ext ≤ d.toNat := by
  by_contra hlt
  exact hext (h.ext.trans (State.ext_storeWord_of_lt v (Nat.not_le.mp hlt)))

/-- The store is one in the sense of the statements about runs. -/
theorem StepStores.storesAt {d v : Word} (h : StepStores s t d v) : StoresAt s t d.toNat := by
  obtain ⟨hrun, hen, i, hfetch, hrrw, hd⟩ | ⟨hrun, rfl, -⟩ := h.source
  · exact .inl ⟨hrun, hen, h.ready, i, d, hfetch, hrrw, hd, rfl⟩
  · exact .inr ⟨hrun, h.ready, rfl⟩

/-- A step that does not store at `a` leaves the word there. -/
theorem step_read_of_not_storesAt (h : step s = .next t) {a : Nat} (ha : ¬ StoresAt s t a) :
    t.mem.read a = s.mem.read a := by
  obtain ⟨hsame, -⟩ | ⟨d, v, hstore⟩ := step_store_cases h
  · rw [hsame]
  · refine hstore.read_other ?_
    rintro rfl
    exact ha hstore.storesAt

/-- A run none of whose steps stores at `a` leaves the word there. -/
theorem run_read_of_not_storesAt {a n : Nat} {s u : State}
    (hnever : ∀ k, k < n → ∀ x y : State, Host.Core.run Sys2Proof.core k s = .next x → step x = .next y →
      ¬ StoresAt x y a)
    (h : Host.Core.run Sys2Proof.core n s = .next u) : u.mem.read a = s.mem.read a := by
  induction n generalizing s with
  | zero =>
    cases h
    rfl
  | succ n ih =>
    obtain ⟨t, hstep, hrest⟩ := run_succ_eq_next h
    have hlater : ∀ k, k < n → ∀ x y : State, Host.Core.run Sys2Proof.core k t = .next x → step x = .next y →
        ¬ StoresAt x y a := by
      intro k hk x y hx
      exact hnever (k + 1) (by omega) x y ((run_succ_of_next k hstep).trans hx)
    calc u.mem.read a
      _ = t.mem.read a := ih hlater hrest
      _ = s.mem.read a := step_read_of_not_storesAt hstep (hnever 0 (by omega) s t (run_zero s) hstep)

end Stores

/-- Settles O34: the address is the destination of the step's one store. -/
theorem memoryChangesOnlyAtDestination : Obligations.MemoryChangesOnlyAtDestination := by
  intro s t hmem h a hread
  obtain ⟨hsame, -⟩ | ⟨d, v, hstore⟩ := step_store_cases h
  · exact absurd (by rw [hsame]) hread
  · obtain rfl : a = d.toNat := by
      by_contra hne
      exact hread (hstore.read_other hne)
    obtain ⟨hrun, -, i, hfetch, hrrw, hd⟩ | ⟨hrun, hdst, rest, hans⟩ := hstore.source
    · exact .inl ⟨hrun, hstore.ready, i, d, hfetch, hrrw, hd, rfl⟩
    · exact .inr ⟨hrun, hstore.ready, v, rest, hans, by rw [hdst], hstore.read_dest hmem⟩

/-- Settles O35: the growth of the step's one store. -/
theorem extentGrowsOnlyByStores : Obligations.ExtentGrowsOnlyByStores := by
  intro s t h
  obtain ⟨-, hsame⟩ | ⟨d, v, hstore⟩ := step_store_cases h
  · exact ⟨hsame.ge, fun hext => absurd hsame hext⟩
  · refine ⟨hstore.ext_le, fun hext => ?_⟩
    have hlow := hstore.ext_le_dest hext
    have hhigh := hstore.dest_lt_ext
    obtain ⟨hrun, -, i, hfetch, hrrw, hd⟩ | ⟨hrun, rfl, -⟩ := hstore.source
    · exact .inl ⟨hrun, i, d, hfetch, hrrw, hd, hlow, hhigh⟩
    · exact .inr ⟨hrun, hstore.ready, hlow, hhigh⟩

/-- Settles O51: the run leaves at `a` what the reset put there. -/
theorem neverStoredWordsReadAsAtReset : Obligations.NeverStoredWordsReadAsAtReset :=
  fun _ s _ image _ ha hnever h => (run_read_of_not_storesAt hnever h).trans (read_hostReset s image ha)

/-! ### The status ports (R25, R191) -/

theorem ports_inReq (s : State) : (ports s).inReq = true ↔ s.run = .awaitingInput := by simp [ports]

/-- ESLOT fits its two bits (R27). -/
theorem toNat_ofNat_slot (k : Slot) : (BitVec.ofNat 2 k.val).toNat = k.val :=
  (BitVec.toNat_ofNat k.val 2).trans (Nat.mod_eq_of_lt k.isLt)

/-- R25: the code tells the run states apart. -/
theorem RunState.code_inj {r r' : RunState} : r.code = r'.code ↔ r = r' := by
  cases r <;> cases r' <;> decide

theorem ports_error_of_faulted {s : State} (hrun : s.run = .faulted) :
    (ports s).error = some (s.err, s.einfo, BitVec.ofNat 2 s.eslot.val) := if_pos hrun

theorem ports_error_of_not_faulted {s : State} (hrun : s.run ≠ .faulted) : (ports s).error = none := if_neg hrun

/-- Settles O49: the codes, then the error ports inside and outside FAULTED. -/
theorem statusPortsShowTheState : Obligations.StatusPortsShowTheState := by
  intro s
  refine ⟨RunState.code_inj (r' := .ready), RunState.code_inj (r' := .awaitingInput),
    RunState.code_inj (r' := .halted), RunState.code_inj (r' := .faulted), ports_inReq s, fun hrun => ?_,
    ports_error_of_not_faulted⟩
  exact ⟨_, ports_error_of_faulted hrun, toNat_ofNat_slot s.eslot, fun hs => hs.errIff.mpr hrun⟩

end Sys2Proof.Machine
end

section
/-! The statements of spec/20_memory.md: store and load (R41, R42), the capacity MEM_CAP (R46), and the store that the
next fetch sees (R57). `memWrite` answers in three ways, one rule for each; the instructions of format RRW and the
completion of INPUT inherit them. -/

namespace Sys2Proof.Machine

open Sys2Proof

/-! ### What a store answers (R42, R46) -/

theorem memWrite_of_neg {a : Word} (s : State) (k : Slot) (v : Word) (ha : a.toInt < 0) :
    memWrite s k a v = .error (.fatal (negativeAddress a k)) := if_pos ha

theorem memWrite_of_room {s : State} {a : Word} (k : Slot) (v : Word) (ha : 0 ≤ a.toInt)
    (hroom : Params.capAllows s.params a.toNat = true) : memWrite s k a v = .ok (s.storeWord a.toNat v) :=
  memWrite_eq_ok.mpr ⟨ha, hroom, rfl⟩

theorem memWrite_of_full {s : State} {a : Word} (k : Slot) (v : Word) (ha : 0 ≤ a.toInt)
    (hfull : Params.capAllows s.params a.toNat = false) : memWrite s k a v = .error (.stuck .memCapExceeded) := by
  simp [memWrite, Int.not_lt.mpr ha, hfull]

/-- R46: nothing at or above a finite capacity is allowed. -/
theorem Params.capAllows_of_le {p : Params} {cap a : Nat} (hcap : p.memCap = some cap) (ha : cap ≤ a) :
    Params.capAllows p a = false := by
  simp [Params.capAllows, hcap, ha]

/-- R46: without a capacity every address is allowed. -/
theorem Params.capAllows_of_unbounded {p : Params} (hcap : p.memCap = none) (a : Nat) :
    Params.capAllows p a = true := by
  simp [Params.capAllows, hcap]

/-! ### What a load gives after a store (R41, R42) -/

theorem read_storeWord_same {s : State} (hmem : s.mem.wf) (a : Nat) (v : Word) :
    (s.storeWord a v).mem.read a = v :=
  Memory.read_write_same s.mem a v hmem

theorem load_storeWord_same {s : State} {a : Word} (hmem : s.mem.wf) (ha : 0 ≤ a.toInt) (j : Slot) (v : Word) :
    load (s.storeWord a.toNat v).mem j a = .ok v :=
  load_eq_ok.mpr ⟨ha, read_storeWord_same hmem a.toNat v⟩

/-- Two words that differ are two addresses, and at a negative one both loads raise. -/
theorem load_storeWord_other {a b : Word} (hne : b ≠ a) (s : State) (j : Slot) (v : Word) :
    load (s.storeWord a.toNat v).mem j b = load s.mem j b := by
  have hnat : b.toNat ≠ a.toNat := fun h => hne (BitVec.eq_of_toNat_eq h)
  simp [load, hnat]

/-- Settles O10: the raise at a negative address, else the store with the two laws of load and the law of EXT. -/
theorem storeThenLoadReturnsWord : Obligations.StoreThenLoadReturnsWord := by
  intro s k j addr v hmem
  refine ⟨fun hneg => ⟨memWrite_of_neg s k v hneg, load_of_neg hneg⟩, fun hpos hroom => ?_⟩
  refine ⟨s.storeWord addr.toNat v, memWrite_of_room k v hpos hroom, load_storeWord_same hmem hpos j v,
    fun b hb => load_storeWord_other hb s j v, fun hlt => State.ext_storeWord_of_lt v hlt, fun _ => ?_, rfl⟩
  exact s.lt_ext_storeWord addr.toNat v

/-! ### The instructions of format RRW (R100) -/

/-- ADD, MUL, LT and EQ have one meaning, with the result word of their table (R101 to R104). -/
theorem exec_eq_execRRW {i : Instr} (hrrw : i.isRRW = true) :
    ∃ f, (∀ a b, i.rrwResult a b = some (f a b)) ∧
      ∀ s, exec i s = execRRW f i.modes.1 i.modes.2.1 i.modes.2.2 s := by
  cases i with
  | add m1 m2 m3 => exact ⟨addWord, fun _ _ => rfl, fun _ => rfl⟩
  | mul m1 m2 m3 => exact ⟨mulWord, fun _ _ => rfl, fun _ => rfl⟩
  | lt m1 m2 m3 => exact ⟨ltWord, fun a b => by simp [Instr.rrwResult, ltWord, truthWord], fun _ => rfl⟩
  | eq m1 m2 m3 => exact ⟨eqWord, fun a b => by simp [Instr.rrwResult, eqWord, truthWord], fun _ => rfl⟩
  | input _ _ _ | output _ _ _ | jnz _ _ _ | jz _ _ _ | setRb _ _ _ | halt _ _ _ => cases hrrw

/-- Only format RRW has a result word (R62). -/
theorem isRRW_of_rrwResult {i : Instr} {a b r : Word} (h : i.rrwResult a b = some r) : i.isRRW = true := by
  cases i with
  | add _ _ _ | mul _ _ _ | lt _ _ _ | eq _ _ _ => rfl
  | input _ _ _ | output _ _ _ | jnz _ _ _ | jz _ _ _ | setRb _ _ _ | halt _ _ _ => cases h

/-- R100 with room under MEM_CAP: the result word is stored, and PC goes on by 4. -/
theorem exec_of_rrwResult {i : Instr} {s : State} {a b d r : Word} (hr : i.rrwResult a b = some r)
    (ha : readOperand s 1 i.modes.1 = .ok a) (hb : readOperand s 2 i.modes.2.1 = .ok b)
    (hd : writeAddress s 3 i.modes.2.2 = .ok d) (hroom : Params.capAllows s.params d.toNat = true) :
    exec i s = .next ((s.storeWord d.toNat r).advance 4) := by
  obtain ⟨f, hresult, hexec⟩ := exec_eq_execRRW (isRRW_of_rrwResult hr)
  obtain rfl : f a b = r := Option.some.inj ((hresult a b).symm.trans hr)
  rw [hexec, execRRW_of_ok ha hb hd hroom]

/-- An evaluated destination is an address (R85). -/
theorem writeAddress_nonneg {s : State} {k : Slot} {m : Mode} {d : Word} (h : writeAddress s k m = .ok d) :
    0 ≤ d.toInt := by
  obtain ⟨p, -, hd, -⟩ := writeAddress_eq_ok.mp h
  exact hd

/-- R46: without room under MEM_CAP the instruction is stuck. -/
theorem execRRW_of_full {f : Word → Word → Word} {m1 m2 m3 : Mode} {s : State} {a b d : Word}
    (ha : readOperand s 1 m1 = .ok a) (hb : readOperand s 2 m2 = .ok b) (hd : writeAddress s 3 m3 = .ok d)
    (hfull : Params.capAllows s.params d.toNat = false) : execRRW f m1 m2 m3 s = .fault .memCapExceeded := by
  have hops := operandsRRW_eq_ok.mpr ⟨ha, hb, hd⟩
  have hstore := memWrite_of_full 3 (f a b) (writeAddress_nonneg hd) hfull
  simp [execRRW, hops, hstore, Except.map, settle]

/-- R46 for the completion of INPUT under the early check. -/
theorem completeInput_of_full {s : State} (v : Word) (hearly : s.params.inputFaultBeforeRequest = true)
    (hdst : 0 ≤ s.dst.toInt) (hfull : Params.capAllows s.params s.dst.toNat = false) :
    completeInput s v = .fault .memCapExceeded := by
  simp [completeInput, hearly, storeInput, memWrite_of_full 1 v hdst hfull, Except.map, settle]

/-- Settles O27: the store of format RRW and that of INPUT's completion, each refused by the capacity. -/
theorem storeBeyondCapacityIsStuck : Obligations.StoreBeyondCapacityIsStuck := by
  constructor
  · intro i s a b d cap hrrw ha hb hd hcap hle
    obtain ⟨f, -, hexec⟩ := exec_eq_execRRW hrrw
    rw [hexec, execRRW_of_full ha hb hd (Params.capAllows_of_le hcap hle)]
  · intro s v rest cap hrun hearly hans hdst hcap hle
    rw [step_of_awaiting hrun, awaitStep_of_word hrun hans]
    exact completeInput_of_full v hearly hdst (Params.capAllows_of_le hcap hle)

/-! ### Without a capacity every step has a next state (R46, R164)

Only a store can fail to answer: what does not store answers in every state. -/

section Unbounded

variable {s : State}

theorem execJump_steps (test : Word → Bool) (m1 m2 : Mode) (s : State) :
    ∃ t, execJump test m1 m2 s = .next t := by
  unfold execJump
  split
  · exact ⟨_, rfl⟩
  · split
    · unfold jumpTo
      split <;> exact ⟨_, rfl⟩
    · exact ⟨_, rfl⟩

theorem execOutput_steps (m1 : Mode) (s : State) : ∃ t, execOutput m1 s = .next t := by
  unfold execOutput
  split
  · exact ⟨_, rfl⟩
  · split <;> exact ⟨_, rfl⟩

theorem execSetRb_steps (m1 : Mode) (s : State) : ∃ t, execSetRb m1 s = .next t := by
  unfold execSetRb
  split <;> exact ⟨_, rfl⟩

theorem execInput_steps (m1 : Mode) (s : State) : ∃ t, execInput m1 s = .next t := by
  unfold execInput
  split
  · split <;> exact ⟨_, rfl⟩
  · exact ⟨_, rfl⟩

/-- An action around one store completes or raises. -/
theorem settle_memWrite_steps (hcap : s.params.memCap = none) (s0 : State) (k : Slot) (a v : Word)
    (g : State → State) : ∃ t, settle s0 ((memWrite s k a v).map g) = .next t := by
  by_cases ha : a.toInt < 0
  · rw [memWrite_of_neg s k v ha]
    exact ⟨_, rfl⟩
  · rw [memWrite_of_room k v (Int.not_lt.mp ha) (Params.capAllows_of_unbounded hcap _)]
    exact ⟨_, rfl⟩

theorem execRRW_steps (hcap : s.params.memCap = none) (f : Word → Word → Word) (m1 m2 m3 : Mode) :
    ∃ t, execRRW f m1 m2 m3 s = .next t := by
  unfold execRRW
  split
  · exact ⟨_, rfl⟩
  · exact settle_memWrite_steps hcap s 3 _ _ _

theorem exec_steps (hcap : s.params.memCap = none) (i : Instr) : ∃ t, exec i s = .next t := by
  cases i with
  | add m1 m2 m3 => exact execRRW_steps hcap addWord m1 m2 m3
  | mul m1 m2 m3 => exact execRRW_steps hcap mulWord m1 m2 m3
  | lt m1 m2 m3 => exact execRRW_steps hcap ltWord m1 m2 m3
  | eq m1 m2 m3 => exact execRRW_steps hcap eqWord m1 m2 m3
  | input m1 _ _ => exact execInput_steps m1 s
  | output m1 _ _ => exact execOutput_steps m1 s
  | jnz m1 m2 _ => exact execJump_steps isNonZero m1 m2 s
  | jz m1 m2 _ => exact execJump_steps isZero m1 m2 s
  | setRb m1 _ _ => exact execSetRb_steps m1 s
  | halt _ _ _ => exact ⟨_, rfl⟩

theorem completeInput_steps (hcap : s.params.memCap = none) (v : Word) : ∃ t, completeInput s v = .next t := by
  unfold completeInput
  split
  · exact settle_memWrite_steps hcap s 1 _ v _
  · split
    · exact ⟨_, rfl⟩
    · rename_i d _
      exact settle_memWrite_steps (s := s.setDst d) hcap s 1 d v _

theorem offerInput_steps (hcap : s.params.memCap = none) (hrun : s.run = .awaitingInput) (a : InAnswer) :
    ∃ t, offerInput s a = .next t := by
  cases a with
  | word v => exact offerInput_word hrun v ▸ completeInput_steps hcap v
  | error =>
    rw [offerInput_error hrun]
    split <;> exact ⟨_, rfl⟩
  | silent => exact ⟨s, offerInput_silent⟩

theorem awaitStep_steps (hcap : s.params.memCap = none) (hrun : s.run = .awaitingInput) :
    ∃ t, awaitStep s = .next t := by
  unfold awaitStep
  split
  · exact ⟨s, rfl⟩
  · rename_i a rest _
    exact offerInput_steps (s := s.setInAnswers rest) hcap hrun a

theorem cycle_steps (hcap : s.params.memCap = none) : ∃ t, cycle s = .next t := by
  rcases hfetch : fetchInstr s with e | i
  · exact ⟨_, cycle_of_fetch_error hfetch⟩
  · exact cycle_of_fetch hfetch ▸ exec_steps hcap i

end Unbounded

/-- Settles O28, by run state (R164). -/
theorem unboundedMachineAlwaysSteps : Obligations.UnboundedMachineAlwaysSteps := by
  intro s hcap
  cases hrun : s.run with
  | ready =>
    cases hen : s.runEnable with
    | false => exact ⟨s, step_of_paused hrun hen⟩
    | true => exact step_of_ready hrun hen ▸ cycle_steps hcap
  | awaitingInput => exact step_of_awaiting hrun ▸ awaitStep_steps hcap hrun
  | halted => exact ⟨s, step_of_halted hrun⟩
  | faulted => exact ⟨s, step_of_faulted hrun⟩

/-! ### The next fetch sees the store (R57) -/

/-- R63, R152: a word at PC that the decoder rejects. -/
theorem fetchInstr_of_decode_error {s : State} {e : DecodeError} (hpc : 0 ≤ s.pc.toInt)
    (hdec : decode s.params.strictUpperDigits (s.mem.read s.pc.toNat) = .error e) :
    fetchInstr s = .error (decodeFatal (s.mem.read s.pc.toNat) e) := by
  simp [fetchInstr, load_of_nonneg hpc, bind, Except.bind, hdec, throw, throwThe, MonadExceptOf.throw]

/-- The step from `t` is what the decoder makes of the word `w`: its instruction, or the fatal stop for it. -/
def StepDecodes (t : State) (w : Word) : Prop :=
  (∀ j, decode t.params.strictUpperDigits w = .ok j → step t = exec j t) ∧
  (∀ e, decode t.params.strictUpperDigits w = .error e → step t = .next (t.fatalStop (decodeFatal w e)))

/-- R80, R81: a running READY core decodes the word at PC. -/
theorem stepDecodes_of_ready {t : State} (hrun : t.run = .ready) (hen : t.runEnable = true)
    (hpc : 0 ≤ t.pc.toInt) : StepDecodes t (t.mem.read t.pc.toNat) := by
  constructor
  · intro j hdec
    rw [step_of_ready hrun hen, cycle_of_fetch (fetchInstr_eq_ok.mpr ⟨hpc, hdec⟩)]
  · intro e hdec
    rw [step_of_ready hrun hen, cycle_of_fetch_error (fetchInstr_of_decode_error hpc hdec)]

/-- R57: a core that goes on at the address it has just stored to decodes the stored word, whatever else the step did to
the state. -/
theorem stepDecodes_stored {s t : State} {d : Word} (v : Word) (hmem : s.mem.wf)
    (hwrite : t.mem = s.mem.write d.toNat v) (hpc : t.pc = d) (hd : 0 ≤ d.toInt) (hrun : t.run = .ready)
    (hen : t.runEnable = true) : StepDecodes t v := by
  subst hpc
  have hread : t.mem.read t.pc.toNat = v := by rw [hwrite, Memory.read_write_same _ _ _ hmem]
  exact hread ▸ stepDecodes_of_ready hrun hen hd

/-- `d` is the destination of the waiting INPUT: it stands in DST, or the deferred variant evaluates it now (R112). -/
def InputDest (s : State) (d : Word) : Prop :=
  s.params.inputFaultBeforeRequest = true ∧ s.dst = d ∧ 0 ≤ d.toInt ∨
    s.params.inputFaultBeforeRequest = false ∧ deferredDest s = .ok d

theorem InputDest.nonneg {s : State} {d : Word} (h : InputDest s d) : 0 ≤ d.toInt := by
  obtain ⟨-, -, hd⟩ | ⟨-, hdest⟩ := h
  · exact hd
  · obtain ⟨i, -, hwrite⟩ := deferredDest_eq_ok.mp hdest
    exact writeAddress_nonneg hwrite

/-- The state after INPUT has stored the host's word `v` at `d`, with the answers that are left (R112). -/
def State.afterInput (s : State) (rest : List InAnswer) (d v : Word) : State :=
  ((((s.setInAnswers rest).setDst d).storeWord d.toNat v).advance 2).setRun .ready

theorem step_eq_afterInput {s : State} {v d : Word} {rest : List InAnswer} (hrun : s.run = .awaitingInput)
    (hans : s.inAnswers = .word v :: rest) (hdest : InputDest s d)
    (hroom : Params.capAllows s.params d.toNat = true) : step s = .next (s.afterInput rest d v) := by
  rw [step_of_awaiting hrun, awaitStep_of_word hrun hans]
  exact completeInput_of_ok (s := s.setInAnswers rest) v hdest hroom

/-- Settles O37: after either store PC is the destination, so the next step decodes the stored word. -/
theorem storeIsSeenByNextFetch : Obligations.StoreIsSeenByNextFetch := by
  constructor
  · intro s i a b d r hrun hen hmem hfetch ha hb hd hroom hr hnext
    refine ⟨(s.storeWord d.toNat r).advance 4, ?_, ?_⟩
    · rw [step_of_ready hrun hen, cycle_of_fetch hfetch, exec_of_rrwResult hr ha hb hd hroom]
    · exact stepDecodes_stored (t := (s.storeWord d.toNat r).advance 4) r hmem rfl hnext.symm
        (writeAddress_nonneg hd) hrun hen
  · intro s v d rest hrun hen hmem hans hdest hroom hnext
    have hinput : InputDest s d := by
      obtain hearly | ⟨hlate, m1, m2, m3, hfetch, hwrite⟩ := hdest
      · exact .inl hearly
      · exact .inr ⟨hlate, deferredDest_eq_ok.mpr ⟨_, hfetch, hwrite⟩⟩
    refine ⟨s.afterInput rest d v, step_eq_afterInput hrun hans hinput hroom, ?_⟩
    exact stepDecodes_stored (t := s.afterInput rest d v) v hmem rfl hnext.symm hinput.nonneg rfl hen

end Sys2Proof.Machine
end

section
/-! The statements of spec/30_encoding.md: the decoder against the canonical words (R61, R63, R71) and against the
checks of R69, which do not use it; then what an illegal word and an IMMEDIATE write parameter do at execution. -/

namespace Sys2Proof

/-! ### The tables of R64 and R65 -/

theorem Opcode.ofCode_eq_some_iff {c : Nat} {op : Opcode} : Opcode.ofCode c = some op ↔ c = op.code := by
  constructor
  · exact Opcode.ofCode_eq_some
  · rintro rfl
    exact op.ofCode_code

theorem Mode.ofDigit_eq_some_iff {d : Nat} {m : Mode} : Mode.ofDigit d = some m ↔ d = m.digit := by
  constructor
  · exact Mode.ofDigit_eq_some
  · rintro rfl
    exact m.ofDigit_digit

/-- The ten codes of R64. -/
theorem Opcode.exists_code_iff {c : Nat} :
    (∃ op : Opcode, c = op.code) ↔ c ∈ [1, 2, 3, 4, 5, 6, 7, 8, 9, 99] := by
  constructor
  · rintro ⟨op, rfl⟩
    cases op <;> decide
  · have hall : ∀ x ∈ [1, 2, 3, 4, 5, 6, 7, 8, 9, 99], (Opcode.ofCode x).isSome := by decide
    intro hc
    obtain ⟨op, hop⟩ := Option.isSome_iff_exists.mp (hall c hc)
    exact ⟨op, Opcode.ofCode_eq_some hop⟩

/-- The three tags of R65. -/
theorem Mode.exists_digit_iff {d : Nat} : (∃ m : Mode, d = m.digit) ↔ d ≤ 2 := by
  constructor
  · rintro ⟨m, rfl⟩
    exact m.digit_le
  · intro hd
    obtain rfl | rfl | rfl : d = 0 ∨ d = 1 ∨ d = 2 := by omega
    · exact ⟨.position, rfl⟩
    · exact ⟨.immediate, rfl⟩
    · exact ⟨.relative, rfl⟩

theorem decodeMode_eq_ok_iff {k : Slot} {d : Nat} {m : Mode} : decodeMode k d = .ok m ↔ d = m.digit :=
  decodeMode_eq_ok.trans Mode.ofDigit_eq_some_iff

/-! ### The checks of R69 on a word that is not negative, as its digits -/

theorem wordSignLegal_iff {w : Word} : wordSignLegal w = true ↔ 0 ≤ w.toInt := by simp [wordSignLegal]

section Digits

variable {w : Word} (hw : 0 ≤ w.toInt)
include hw

theorem wordUpperLegal_iff {strict : Bool} :
    wordUpperLegal strict w = true ↔ (strict = true → w.toNat < 100000) := by
  have hn := toNat_eq_of_nonneg hw
  have hdiv : w.toInt / 100000 = 0 ↔ w.toNat < 100000 := by omega
  cases strict <;> simp [wordUpperLegal, hdiv]

theorem wordOpcodeLegal_iff : wordOpcodeLegal w = true ↔ ∃ op : Opcode, w.toNat % 100 = op.code := by
  have hn := toNat_eq_of_nonneg hw
  rw [Opcode.exists_code_iff]
  simp only [wordOpcodeLegal, decide_eq_true_eq, List.mem_cons, List.not_mem_nil, or_false]
  omega

theorem wordDigit_eq (j : Nat) : wordDigit j w = ((w.toNat / 10 ^ j % 10 : Nat) : Int) := by
  rw [wordDigit, ← toNat_eq_of_nonneg hw]
  norm_cast

theorem wordModeLegal_iff (k : Nat) :
    wordModeLegal k w = true ↔ ∃ m : Mode, w.toNat / 10 ^ (k + 1) % 10 = m.digit := by
  rw [Mode.exists_digit_iff, wordModeLegal, wordDigit_eq hw]
  norm_cast
  simp

theorem decodeMode_of_legal {k : Nat} (slot : Slot) (h : wordModeLegal k w = true) :
    ∃ m, decodeMode slot (w.toNat / 10 ^ (k + 1) % 10) = .ok m := by
  obtain ⟨m, hm⟩ := (wordModeLegal_iff hw k).mp h
  exact ⟨m, decodeMode_eq_ok_iff.mpr hm⟩

/-- The decoder rejects an illegal mode digit under the name of the slot it is read for (R63). -/
theorem decodeMode_of_illegal {k : Nat} (slot : Slot) (h : wordModeLegal k w = false) :
    decodeMode slot (w.toNat / 10 ^ (k + 1) % 10) = .error (.unknownMode slot) := by
  unfold decodeMode
  split
  · rename_i m hm
    have hlegal := (wordModeLegal_iff hw k).mpr ⟨m, Mode.ofDigit_eq_some hm⟩
    simp [hlegal] at h
  · rfl

end Digits

/-! ### The decoder, check by check (R63) -/

/-- The first checks: the sign, the upper digits under the strict setting, the opcode. -/
theorem decode_of_unknown_opcode {strict : Bool} {w : Word}
    (h : wordSignLegal w = false ∨ wordUpperLegal strict w = false ∨ wordOpcodeLegal w = false) :
    decode strict w = .error .unknownOpcode := by
  unfold decode
  split
  · rfl
  · rename_i hneg
    have hw := Int.not_lt.mp hneg
    split
    · rfl
    · rename_i hupper
      split
      · rfl
      · rename_i op hop
        have hcode : wordOpcodeLegal w = true := (wordOpcodeLegal_iff hw).mpr ⟨op, Opcode.ofCode_eq_some hop⟩
        have hlow : wordUpperLegal strict w = true := by
          rw [wordUpperLegal_iff hw]
          simpa using hupper
        simp [wordSignLegal_iff.mpr hw, hlow, hcode] at h

/-- The fields of a word are those of the instruction (R61). -/
structure HasFields (w : Word) (i : Instr) : Prop where
  opcode : w.toNat % 100 = i.opcode.code
  mode1 : w.toNat / 100 % 10 = i.modes.1.digit
  mode2 : w.toNat / 1000 % 10 = i.modes.2.1.digit
  mode3 : w.toNat / 10000 % 10 = i.modes.2.2.digit

/-- The five low digits and the canonical word's are the same number (R71). -/
theorem hasFields_iff_encodeNat {w : Word} {i : Instr} : HasFields w i ↔ w.toNat % 100000 = encodeNat i := by
  have hcode := i.opcode.code_range
  have hmode1 := i.modes.1.digit_le
  have hmode2 := i.modes.2.1.digit_le
  have hmode3 := i.modes.2.2.digit_le
  unfold encodeNat
  constructor
  · rintro ⟨hop, h1, h2, h3⟩
    omega
  · intro h
    constructor <;> omega

section Slots

variable {strict : Bool} {w : Word} (hw : 0 ≤ w.toInt) (hupper : wordUpperLegal strict w = true)
include hw hupper

/-- Past the opcode the decoder reads the three slots in order. -/
theorem decode_of_opcode {op : Opcode} (hop : w.toNat % 100 = op.code) :
    decode strict w = (do
      let m1 ← decodeMode 1 (w.toNat / 100 % 10)
      let m2 ← decodeMode 2 (w.toNat / 1000 % 10)
      let m3 ← decodeMode 3 (w.toNat / 10000 % 10)
      return op.instr m1 m2 m3) := by
  have hlow := (wordUpperLegal_iff hw).mp hupper
  have hcheck : (strict && w.toNat / 100000 != 0) = false := by
    cases strict <;> simp_all
  simp [decode, Int.not_lt.mpr hw, hcheck, hop]

theorem decode_of_hasFields {i : Instr} (h : HasFields w i) : decode strict w = .ok i := by
  rw [decode_of_opcode hw hupper h.opcode, decodeMode_eq_ok_iff.mpr h.mode1, decodeMode_eq_ok_iff.mpr h.mode2,
    decodeMode_eq_ok_iff.mpr h.mode3]
  exact congrArg Except.ok i.eq_instr.symm

variable (hcode : wordOpcodeLegal w = true)
include hcode

theorem decode_of_unknown_mode1 (h1 : wordModeLegal 1 w = false) : decode strict w = .error (.unknownMode 1) := by
  obtain ⟨op, hop⟩ := (wordOpcodeLegal_iff hw).mp hcode
  have hslot1 : decodeMode 1 (w.toNat / 100 % 10) = .error (.unknownMode 1) := decodeMode_of_illegal hw 1 h1
  rw [decode_of_opcode hw hupper hop, hslot1]
  rfl

theorem decode_of_unknown_mode2 (h1 : wordModeLegal 1 w = true) (h2 : wordModeLegal 2 w = false) :
    decode strict w = .error (.unknownMode 2) := by
  obtain ⟨op, hop⟩ := (wordOpcodeLegal_iff hw).mp hcode
  obtain ⟨m1, hslot1⟩ : ∃ m, decodeMode 1 (w.toNat / 100 % 10) = .ok m := decodeMode_of_legal hw 1 h1
  have hslot2 : decodeMode 2 (w.toNat / 1000 % 10) = .error (.unknownMode 2) := decodeMode_of_illegal hw 2 h2
  rw [decode_of_opcode hw hupper hop, hslot1, hslot2]
  rfl

theorem decode_of_unknown_mode3 (h1 : wordModeLegal 1 w = true) (h2 : wordModeLegal 2 w = true)
    (h3 : wordModeLegal 3 w = false) : decode strict w = .error (.unknownMode 3) := by
  obtain ⟨op, hop⟩ := (wordOpcodeLegal_iff hw).mp hcode
  obtain ⟨m1, hslot1⟩ : ∃ m, decodeMode 1 (w.toNat / 100 % 10) = .ok m := decodeMode_of_legal hw 1 h1
  obtain ⟨m2, hslot2⟩ : ∃ m, decodeMode 2 (w.toNat / 1000 % 10) = .ok m := decodeMode_of_legal hw 2 h2
  have hslot3 : decodeMode 3 (w.toNat / 10000 % 10) = .error (.unknownMode 3) := decodeMode_of_illegal hw 3 h3
  rw [decode_of_opcode hw hupper hop, hslot1, hslot2, hslot3]
  rfl

theorem decode_of_legal_fields (h1 : wordModeLegal 1 w = true) (h2 : wordModeLegal 2 w = true)
    (h3 : wordModeLegal 3 w = true) : ∃ i, HasFields w i ∧ decode strict w = .ok i := by
  obtain ⟨op, hop⟩ := (wordOpcodeLegal_iff hw).mp hcode
  obtain ⟨m1, hm1⟩ := (wordModeLegal_iff hw 1).mp h1
  obtain ⟨m2, hm2⟩ := (wordModeLegal_iff hw 2).mp h2
  obtain ⟨m3, hm3⟩ := (wordModeLegal_iff hw 3).mp h3
  have hfields : HasFields w (op.instr m1 m2 m3) := by
    constructor <;> simpa
  exact ⟨_, hfields, decode_of_hasFields hw hupper hfields⟩

end Slots

/-! ### Accepted words and legal words -/

theorem legalWord_iff {strict : Bool} {w : Word} :
    legalWord strict w = true ↔ 0 ≤ w.toInt ∧ wordUpperLegal strict w = true ∧ wordOpcodeLegal w = true ∧
      wordModeLegal 1 w = true ∧ wordModeLegal 2 w = true ∧ wordModeLegal 3 w = true := by
  simp [legalWord, wordSignLegal_iff, and_assoc]

/-- R69, the accepting half, with the fields of the instruction. -/
theorem decode_of_legal {strict : Bool} {w : Word} (h : legalWord strict w = true) :
    ∃ i, HasFields w i ∧ decode strict w = .ok i := by
  obtain ⟨hw, hupper, hcode, h1, h2, h3⟩ := legalWord_iff.mp h
  exact decode_of_legal_fields hw hupper hcode h1 h2 h3

/-- R69, the rejecting half: the first check that fails names the cause. -/
theorem decode_of_illegal {strict : Bool} {w : Word} (h : legalWord strict w = false) :
    ∃ e, decode strict w = .error e := by
  by_cases hfirst : wordSignLegal w = false ∨ wordUpperLegal strict w = false ∨ wordOpcodeLegal w = false
  · exact ⟨_, decode_of_unknown_opcode hfirst⟩
  · simp only [not_or, Bool.not_eq_false] at hfirst
    obtain ⟨hsign, hupper, hcode⟩ := hfirst
    have hw := wordSignLegal_iff.mp hsign
    cases h1 : wordModeLegal 1 w with
    | false => exact ⟨_, decode_of_unknown_mode1 hw hupper hcode h1⟩
    | true =>
      cases h2 : wordModeLegal 2 w with
      | false => exact ⟨_, decode_of_unknown_mode2 hw hupper hcode h1 h2⟩
      | true =>
        cases h3 : wordModeLegal 3 w with
        | false => exact ⟨_, decode_of_unknown_mode3 hw hupper hcode h1 h2 h3⟩
        | true => simp [legalWord_iff.mpr ⟨hw, hupper, hcode, h1, h2, h3⟩] at h

theorem decode_eq_ok_iff {strict : Bool} {w : Word} {i : Instr} :
    decode strict w = .ok i ↔ 0 ≤ w.toInt ∧ wordUpperLegal strict w = true ∧ HasFields w i := by
  constructor
  · intro hdec
    cases hlegal : legalWord strict w with
    | false =>
      obtain ⟨e, herr⟩ := decode_of_illegal hlegal
      cases hdec.symm.trans herr
    | true =>
      obtain ⟨j, hfields, hj⟩ := decode_of_legal hlegal
      cases hdec.symm.trans hj
      obtain ⟨hw, hupper, -⟩ := legalWord_iff.mp hlegal
      exact ⟨hw, hupper, hfields⟩
  · rintro ⟨hw, hupper, hfields⟩
    exact decode_of_hasFields hw hupper hfields

/-- 0 is no opcode (R69). -/
theorem decode_zero (strict : Bool) : decode strict 0 = .error .unknownOpcode :=
  decode_of_unknown_opcode (.inr (.inr (by decide)))

/-- Settles O3: the fields are the digits of the canonical word, and the strict setting bounds the number. -/
theorem decodeAgreesWithEncode : Obligations.DecodeAgreesWithEncode := by
  intro strict w i
  rw [decode_eq_ok_iff, hasFields_iff_encodeNat]
  refine and_congr_right fun hw => ?_
  have hn := toNat_eq_of_nonneg hw
  rw [wordUpperLegal_iff hw, and_comm, ← hn]
  norm_cast

/-- Settles O5: each check by its own rule, with upper digits ignored. -/
theorem decodeChecksInOrder : Obligations.DecodeChecksInOrder := by
  intro w
  have hupper : wordUpperLegal false w = true := rfl
  refine ⟨fun h => decode_of_unknown_opcode (by tauto), fun hsign hcode => ?_⟩
  have hw := wordSignLegal_iff.mp hsign
  refine ⟨decode_of_unknown_mode1 hw hupper hcode, decode_of_unknown_mode2 hw hupper hcode,
    decode_of_unknown_mode3 hw hupper hcode, fun h1 h2 h3 => ?_⟩
  obtain ⟨i, hfields, hdec⟩ := decode_of_legal_fields hw hupper hcode h1 h2 h3
  have hn := toNat_eq_of_nonneg hw
  obtain ⟨hop, hm1, hm2, hm3⟩ := hfields
  refine ⟨i, hdec, ?_⟩
  unfold wordDigit
  omega

/-- Settles O2: each word by evaluation. -/
theorem decodeSpecWords : Obligations.DecodeSpecWords := by
  unfold Obligations.DecodeSpecWords
  decide

end Sys2Proof

namespace Sys2Proof.Machine

open Sys2Proof

/-! ### Illegal words at execution (R69, R152) -/

/-- The fatal stop for a rejected word (R152, R154): DecodeError, EINFO the word, nothing else changed. -/
theorem fatalStop_decodeFatal (s : State) (w : Word) (e : DecodeError) :
    ((s.fatalStop (decodeFatal w e)).err = 1 ∨ (s.fatalStop (decodeFatal w e)).err = 2) ∧
      s.fatalStop (decodeFatal w e) =
        { s with
          run := .faulted, err := (s.fatalStop (decodeFatal w e)).err, einfo := w,
          eslot := (s.fatalStop (decodeFatal w e)).eslot } := by
  cases e with
  | unknownOpcode => exact ⟨.inl rfl, rfl⟩
  | unknownMode slot => exact ⟨.inr rfl, rfl⟩

/-- Settles O4: acceptance and legality agree, and the step raises what the decoder answers. -/
theorem decodeRejectsExactlyIllegalWords : Obligations.DecodeRejectsExactlyIllegalWords := by
  refine ⟨fun strict w => ⟨?_, decode_of_illegal⟩, decode_zero, ?_⟩
  · rintro ⟨e, herr⟩
    by_contra hlegal
    obtain ⟨i, -, hdec⟩ := decode_of_legal (Bool.not_eq_false _ ▸ hlegal)
    cases herr.symm.trans hdec
  · intro s hrun hen hpc hillegal
    obtain ⟨e, herr⟩ := decode_of_illegal hillegal
    exact ⟨_, (stepDecodes_of_ready hrun hen hpc).2 e herr, fatalStop_decodeFatal s _ e⟩

/-- A word 0 at PC is no opcode (R69 (b)). -/
theorem step_of_read_zero {s : State} (hrun : s.run = .ready) (hen : s.runEnable = true) (hpc : 0 ≤ s.pc.toInt)
    (hread : s.mem.read s.pc.toNat = 0) :
    step s = .next { s with run := .faulted, err := 1, einfo := 0, eslot := 0 } := by
  have hdecodes := stepDecodes_of_ready hrun hen hpc
  rw [hread] at hdecodes
  exact hdecodes.2 .unknownOpcode (decode_zero _)

/-- Settles O43: memory reads 0 from EXT on (R29), and so everywhere after a reset with the empty image (R183). -/
theorem untouchedMemoryIsDecodeError : Obligations.UntouchedMemoryIsDecodeError := by
  refine ⟨fun s => step_of_read_zero, fun s hs hrun hen hpc hext => ?_, fun s hen => ?_⟩
  · exact step_of_read_zero hrun hen hpc (Memory.read_of_bound s.mem s.ext s.pc.toNat hs.extent hext)
  · have hstep := step_of_read_zero (s := hostReset s []) rfl hen (Int.le_refl 0) rfl
    exact ⟨_, hstep, rfl, rfl, rfl, rfl, rfl⟩

/-! ### IMMEDIATE as the mode of a write parameter (R70, R85) -/

/-- The fatal stop of R85. -/
theorem writeAddress_immediate_of_param {s : State} {k : Slot} {p : Word} (hp : paramWord s k = .ok p) :
    writeAddress s k .immediate = .error { cause := .immediateWrite, info := p, slot := k } := by
  simp [writeAddress, hp, bind, Except.bind, throw, throwThe, MonadExceptOf.throw]

theorem writeAddress_immediate (s : State) (k : Slot) : ∃ e, writeAddress s k .immediate = .error e := by
  cases hwrite : writeAddress s k .immediate with
  | error e => exact ⟨e, rfl⟩
  | ok d =>
    obtain ⟨p, -, -, ⟨hmode, -⟩ | ⟨hmode, -⟩⟩ := writeAddress_eq_ok.mp hwrite <;> cases hmode

theorem execRRW_of_error {f : Word → Word → Word} {m1 m2 m3 : Mode} {s : State} {e : FatalError}
    (h : operandsRRW s m1 m2 m3 = .error e) : execRRW f m1 m2 m3 s = .next (s.fatalStop e) := by
  simp [execRRW, h]

theorem execInput_of_error {m1 : Mode} {s : State} {e : FatalError}
    (hearly : s.params.inputFaultBeforeRequest = true) (h : writeAddress s 1 m1 = .error e) :
    execInput m1 s = .next (s.fatalStop e) := by
  simp [execInput, hearly, h]

/-- The write parameter is slot 3 of format RRW or slot 1 of INPUT (R62, R65). -/
theorem writeMode_eq_some {i : Instr} {m : Mode} (h : i.writeMode = some m) :
    (i.isRRW = true ∧ i.modes.2.2 = m) ∨ ∃ m2 m3, i = .input m m2 m3 := by
  cases i with
  | add _ _ _ | mul _ _ _ | lt _ _ _ | eq _ _ _ => exact .inl ⟨rfl, Option.some.inj h⟩
  | input m1 m2 m3 =>
    obtain rfl := Option.some.inj h
    exact .inr ⟨m2, m3, rfl⟩
  | output _ _ _ | jnz _ _ _ | jz _ _ _ | setRb _ _ _ | halt _ _ _ => cases h

theorem opcode_ne_input_of_isRRW {i : Instr} (hrrw : i.isRRW = true) : i.opcode ≠ .input := by
  cases i with
  | add _ _ _ | mul _ _ _ | lt _ _ _ | eq _ _ _ => simp [Instr.opcode]
  | input _ _ _ | output _ _ _ | jnz _ _ _ | jz _ _ _ | setRb _ _ _ | halt _ _ _ => cases hrrw

/-- Format RRW raises what its operands raise, the write parameter last (R86, R100). -/
theorem exec_of_operands_error {i : Instr} {s : State} {e : FatalError} (hrrw : i.isRRW = true)
    (h : operandsRRW s i.modes.1 i.modes.2.1 i.modes.2.2 = .error e) : exec i s = .next (s.fatalStop e) := by
  obtain ⟨f, -, hexec⟩ := exec_eq_execRRW hrrw
  rw [hexec, execRRW_of_error h]

/-- Under IMMEDIATE the write parameter raises where the operands before it do not. -/
theorem operandsRRW_immediate (s : State) (m1 m2 : Mode) : ∃ e, operandsRRW s m1 m2 .immediate = .error e := by
  cases hops : operandsRRW s m1 m2 .immediate with
  | error e => exact ⟨e, rfl⟩
  | ok abd =>
    obtain ⟨a, b, d⟩ := abd
    obtain ⟨-, -, hwrite⟩ := operandsRRW_eq_ok.mp hops
    obtain ⟨e, herr⟩ := writeAddress_immediate s 3
    cases hwrite.symm.trans herr

/-- Settles O38: format RRW, then INPUT with the early check. -/
theorem immediateWriteNeverCompletes : Obligations.ImmediateWriteNeverCompletes := by
  intro i s hill hchecked
  have hmode : i.writeMode = some .immediate := by simpa [Instr.wellFormed] using hill
  obtain ⟨hrrw, hm3⟩ | ⟨m2, m3, rfl⟩ := writeMode_eq_some hmode
  · refine ⟨?_, fun a b p _ ha hb hp => ?_, fun p hinput => absurd hinput (opcode_ne_input_of_isRRW hrrw)⟩
    · obtain ⟨e, hops⟩ := operandsRRW_immediate s i.modes.1 i.modes.2.1
      exact ⟨e, exec_of_operands_error hrrw (hm3 ▸ hops)⟩
    · have hwrite := writeAddress_immediate_of_param hp
      have hops := operandsRRW_eq_error.mpr (.inr (.inr ⟨⟨a, ha⟩, ⟨b, hb⟩, hm3 ▸ hwrite⟩))
      exact exec_of_operands_error hrrw hops
  · have hearly : s.params.inputFaultBeforeRequest = true := hchecked.resolve_left nofun
    refine ⟨?_, fun a b p hrrw => (nomatch hrrw), fun p _ hp => ?_⟩
    · obtain ⟨e, hwrite⟩ := writeAddress_immediate s 1
      exact ⟨e, execInput_of_error hearly hwrite⟩
    · exact execInput_of_error hearly (writeAddress_immediate_of_param hp)

end Sys2Proof.Machine
end

section
/-! The statements of spec/40_operands.md: the parameter fetch (R82), the two evaluations under each mode (R84, R85),
the wrap of RELATIVE addresses (R87), the cycle's fetch and decode (R80, R81), and the order of the slots (R86). An
evaluation is the parameter fetch followed by `load` or `checkDest`: one equation per mode says so, and the statements
read the sign test of those two. -/

namespace Sys2Proof

/-! ### Narrowing a sum -/

/-- Below the least word the narrowing is not negative (R87). -/
theorem toInt_wrap64_of_underflow {x : Int} (hlow : -18446744073709551616 ≤ x) (hhigh : x < -9223372036854775808) :
    (wrap64 x).toInt = x + 18446744073709551616 := by
  have hres := wrap64IsSignedResidue x
  split at hres <;> omega

/-- An address and an offset that do not leave the addresses add as natural numbers. -/
theorem toNat_wrap64_add {w : Word} {n : Nat} (hw : 0 ≤ w.toInt) (hn : w.toInt + n < 9223372036854775808) :
    (wrap64 (w.toInt + n)).toNat = w.toNat + n := by
  have hsum := toInt_wrap64_of_range (x := w.toInt + n) (by omega) hn
  have hnat := toNat_eq_of_nonneg hw
  have hsumnat := toNat_eq_of_nonneg (w := wrap64 (w.toInt + n)) (by omega)
  omega

end Sys2Proof

namespace Sys2Proof.Machine

open Sys2Proof

/-! ### The parameter fetch (R82) -/

/-- Settles O6: the narrowed PC + k is an address, or it has wrapped to a negative word. -/
theorem parameterFetchAddress : Obligations.ParameterFetchAddress := by
  intro s k hpc _
  have htop := (word_toInt_bounds s.pc).2
  have hk := k.isLt
  refine ⟨fun hin => ?_, fun hover => ?_⟩
  · have haddr := toInt_wrap64_of_range (x := s.pc.toInt + k.val) (by omega) (by omega)
    exact paramWord_eq_ok.mpr ⟨by omega, by rw [toNat_wrap64_add hpc (by omega)]⟩
  · have haddr := toInt_wrap64_of_overflow (x := s.pc.toInt + k.val) (by omega) (by omega)
    exact ⟨_, load_of_neg (by omega), rfl, haddr, rfl⟩

/-! ### RELATIVE addresses (R87) -/

/-- Settles O9: the sum of two words lies in the word range, or within 2^64 of it on either side. -/
theorem relativeAddressWraps : Obligations.RelativeAddressWraps := by
  intro s p
  have hp := word_toInt_bounds p
  have hrb := word_toInt_bounds s.rb
  refine ⟨fun hlow hhigh => toInt_wrap64_of_range hlow (by omega), fun hover => ?_, fun hunder => ?_⟩
  · have haddr : (relativeAddr s p).toInt = p.toInt + s.rb.toInt - 18446744073709551616 :=
      toInt_wrap64_of_overflow (by omega) (by omega)
    exact ⟨haddr, by omega⟩
  · have haddr : (relativeAddr s p).toInt = p.toInt + s.rb.toInt + 18446744073709551616 :=
      toInt_wrap64_of_underflow (by omega) (by omega)
    exact ⟨haddr, by omega⟩

/-! ### Read parameters (R84) -/

section Parameter

variable {s : State} {k : Slot} {p : Word} {e : FatalError}

theorem readOperand_of_param_error (h : paramWord s k = .error e) (m : Mode) : readOperand s k m = .error e := by
  simp [readOperand, h, bind, Except.bind]

theorem readOperand_immediate_of_param (h : paramWord s k = .ok p) : readOperand s k .immediate = .ok p := by
  simp [readOperand, h, bind, Except.bind, pure, Except.pure]

theorem readOperand_position_of_param (h : paramWord s k = .ok p) : readOperand s k .position = load s.mem k p := by
  simp [readOperand, h, bind, Except.bind]

theorem readOperand_relative_of_param (h : paramWord s k = .ok p) :
    readOperand s k .relative = load s.mem k (relativeAddr s p) := by
  simp [readOperand, h, bind, Except.bind]

/-! ### Write parameters (R85) -/

theorem checkDest_of_nonneg {d : Word} (k : Slot) (h : 0 ≤ d.toInt) : checkDest k d = .ok d :=
  checkDest_eq_ok.mpr ⟨h, rfl⟩

theorem checkDest_of_neg {d : Word} (k : Slot) (h : d.toInt < 0) : checkDest k d = .error (negativeAddress d k) :=
  if_pos h

theorem writeAddress_of_param_error (h : paramWord s k = .error e) (m : Mode) : writeAddress s k m = .error e := by
  simp [writeAddress, h, bind, Except.bind]

theorem writeAddress_position_of_param (h : paramWord s k = .ok p) : writeAddress s k .position = checkDest k p := by
  simp [writeAddress, h, bind, Except.bind]

theorem writeAddress_relative_of_param (h : paramWord s k = .ok p) :
    writeAddress s k .relative = checkDest k (relativeAddr s p) := by
  simp [writeAddress, h, bind, Except.bind]

end Parameter

/-- Settles O7: IMMEDIATE is the parameter, the other modes load from `p` and from its RELATIVE address. -/
theorem readOperandByMode : Obligations.ReadOperandByMode := by
  intro s k
  refine ⟨fun e m herr => readOperand_of_param_error herr m, fun p hp => ?_⟩
  rw [readOperand_position_of_param hp, readOperand_relative_of_param hp]
  refine ⟨readOperand_immediate_of_param hp, load_of_nonneg, load_of_neg, ?_⟩
  rintro ea rfl
  exact ⟨load_of_nonneg, load_of_neg⟩

/-- Settles O8: IMMEDIATE raises, the other modes check the sign of `p` and of its RELATIVE address. -/
theorem writeAddressByMode : Obligations.WriteAddressByMode := by
  intro s k
  refine ⟨fun e m herr => writeAddress_of_param_error herr m, fun p hp => ?_⟩
  rw [writeAddress_position_of_param hp, writeAddress_relative_of_param hp]
  refine ⟨writeAddress_immediate_of_param hp, checkDest_of_nonneg k, checkDest_of_neg k, ?_⟩
  rintro ea rfl
  exact ⟨checkDest_of_nonneg k, checkDest_of_neg k⟩

/-! ### Fetch and decode (R80, R81) -/

/-- R81: the fetch is a load, and its error is for no slot. -/
theorem fetchInstr_of_neg_pc {s : State} (h : s.pc.toInt < 0) :
    fetchInstr s = .error (negativeAddress s.pc 0) := by
  simp [fetchInstr, load_of_neg h, bind, Except.bind]

/-- Settles O11: a running READY core does what the decoder makes of the word at PC. -/
theorem stepRunsDecodedInstruction : Obligations.StepRunsDecodedInstruction :=
  fun _ i hrun hen hpc hdec => (stepDecodes_of_ready hrun hen hpc).1 i hdec

/-- Settles O12: the load raises at a negative PC (R81), else the step raises what the decoder answers (R152). -/
theorem fetchAndDecodeErrorsAreFatal : Obligations.FetchAndDecodeErrorsAreFatal := by
  intro s hrun hen
  refine ⟨fun hneg => ?_, ?_⟩
  · rw [step_of_ready hrun hen, cycle_of_fetch_error (fetchInstr_of_neg_pc hneg)]
    rfl
  · rintro w hpc rfl
    have hraise := (stepDecodes_of_ready hrun hen hpc).2
    exact ⟨hraise .unknownOpcode, fun k => hraise (.unknownMode k)⟩

/-! ### The order of the slots (R86, R157) -/

theorem execJump_of_error {test : Word → Bool} {m1 m2 : Mode} {s : State} {e : FatalError}
    (h : operandsRR s m1 m2 = .error e) : execJump test m1 m2 s = .next (s.fatalStop e) := by
  simp [execJump, h]

/-- JNZ and JZ raise what their operands raise, before the test (R86). -/
theorem exec_of_jump_operands_error {i : Instr} {s : State} {e : FatalError}
    (hjump : i.opcode = .jnz ∨ i.opcode = .jz) (h : operandsRR s i.modes.1 i.modes.2.1 = .error e) :
    exec i s = .next (s.fatalStop e) := by
  cases i with
  | jnz _ _ _ | jz _ _ _ => exact execJump_of_error h
  | add _ _ _ | mul _ _ _ | input _ _ _ | output _ _ _ | lt _ _ _ | eq _ _ _ | setRb _ _ _ | halt _ _ _ =>
    simp [Instr.opcode] at hjump

/-- Settles O17: the error of the operands is the lowest faulting slot's, and it is raised before the action. -/
theorem lowestFaultingSlotWins : Obligations.LowestFaultingSlotWins := by
  constructor
  · intro i s e hrrw
    have hraise := fun h => exec_of_operands_error (s := s) (e := e) hrrw (operandsRRW_eq_error.mpr h)
    refine ⟨fun h1 => hraise (.inl h1), fun a ha => ⟨fun h2 => ?_, fun b hb h3 => ?_⟩⟩
    · exact hraise (.inr (.inl ⟨⟨a, ha⟩, h2⟩))
    · exact hraise (.inr (.inr ⟨⟨a, ha⟩, ⟨b, hb⟩, h3⟩))
  · intro i s e hjump
    have hraise := fun h => exec_of_jump_operands_error (s := s) (e := e) hjump (operandsRR_eq_error.mpr h)
    exact ⟨fun h1 => hraise (.inl h1), fun a ha h2 => hraise (.inr ⟨⟨a, ha⟩, h2⟩)⟩

end Sys2Proof.Machine
end

section
/-! The statements of spec/41_arith_compare.md: ADD, MUL, LT and EQ (R101 to R104) in the common shape of R100. The
effect of a store with its frame is said once, R100 once for every result word, and each instruction is that with the
result word of its table. -/

namespace Sys2Proof.Machine

open Sys2Proof

/-- R29, R42: the extent after a store. -/
theorem State.storeWord_extent (s : State) (a : Nat) (v : Word) :
    if a < s.ext then (s.storeWord a v).ext = s.ext else a + 1 ≤ (s.storeWord a v).ext := by
  split
  · exact State.ext_storeWord_of_lt v (by assumption)
  · exact s.lt_ext_storeWord a v

/-- R100: a store followed by the sequential PC has the stated effect and frame. -/
theorem storeEffect_storeWord_advance {s : State} (hmem : s.mem.wf) (d v : Word) (size : Nat) :
    StoreEffect s ((s.storeWord d.toNat v).advance size) d v size where
  stored := read_storeWord_same hmem d.toNat v
  others := s.mem.read_write_other d.toNat v
  extent := s.storeWord_extent d.toNat v
  pc := rfl
  rb := rfl
  run := rfl
  dst := rfl
  error := ⟨rfl, rfl, rfl⟩
  channels := ⟨rfl, rfl, rfl⟩
  host := ⟨rfl, rfl⟩

/-- R100 for every instruction whose table has the result word `result a b` (R101 to R104): the store, or the error of
the operands. -/
theorem meetsR100_of_rrwResult {i : Instr} {result : Word → Word → Word}
    (hresult : ∀ a b, i.rrwResult a b = some (result a b)) :
    MeetsR100 i i.modes.1 i.modes.2.1 i.modes.2.2 result := by
  intro s
  constructor
  · intro a b d ha hb hd hroom hmem
    exact ⟨_, exec_of_rrwResult (hresult a b) ha hb hd hroom, storeEffect_storeWord_advance hmem d (result a b) 4⟩
  · intro e herr
    exact exec_of_operands_error (isRRW_of_rrwResult (hresult 0 0)) herr

/-- Settles O13: the result word of ADD (R101). -/
theorem addStoresWrappedSum : Obligations.AddStoresWrappedSum :=
  fun m1 m2 m3 => meetsR100_of_rrwResult (i := .add m1 m2 m3) fun _ _ => rfl

/-- Settles O14: the result word of MUL (R102). -/
theorem mulStoresWrappedProduct : Obligations.MulStoresWrappedProduct :=
  fun m1 m2 m3 => meetsR100_of_rrwResult (i := .mul m1 m2 m3) fun _ _ => rfl

/-- Settles O15: the result word of LT (R103). -/
theorem ltStoresSignedComparison : Obligations.LtStoresSignedComparison :=
  fun m1 m2 m3 => meetsR100_of_rrwResult (i := .lt m1 m2 m3) fun _ _ => rfl

/-- Settles O16: the result word of EQ (R104). -/
theorem eqStoresEquality : Obligations.EqStoresEquality :=
  fun m1 m2 m3 => meetsR100_of_rrwResult (i := .eq m1 m2 m3) fun _ _ => rfl

end Sys2Proof.Machine
end

section
/-! The statements of spec/42_io.md: INPUT's request (R111) and completion (R112), OUTPUT (R117, R119), the record of
channel events (R120), and the runs that do not depend on the host's input (R121). Each operation of the channels has
one equation per answer, and the statements are read off these. -/

namespace Sys2Proof.Machine

open Sys2Proof

/-! ### Input without a request (R116) -/

/-- Settles O26, by run state. -/
theorem unsolicitedInputIsIgnored : Obligations.UnsolicitedInputIsIgnored := by
  intro s a hrun
  cases h : s.run with
  | awaitingInput => exact absurd h hrun
  | ready | halted | faulted => simp [offerInput, h]

/-! ### INPUT, the request step (R111) -/

theorem execInput_of_dest {m1 : Mode} {s : State} {d : Word} (hearly : s.params.inputFaultBeforeRequest = true)
    (h : writeAddress s 1 m1 = .ok d) : execInput m1 s = .next (requestInput (s.setDst d)) := by
  simp [execInput, hearly, h]

/-- The deferred variant requests without a check (R112). -/
theorem execInput_of_deferred {s : State} (hlate : s.params.inputFaultBeforeRequest = false) (m1 : Mode) :
    execInput m1 s = .next (requestInput s) := by
  simp [execInput, hlate]

/-- Settles O23: the early check passes or raises, and the deferred variant makes none. -/
theorem inputRequestStep : Obligations.InputRequestStep := by
  intro m1 m2 m3 s
  refine ⟨fun hearly => ⟨fun d hd => ?_, fun e he => ?_⟩, fun hlate => ?_⟩
  · exact execInput_of_dest hearly hd
  · exact execInput_of_error hearly he
  · exact execInput_of_deferred hlate m1

/-! ### INPUT, the completion step (R112, R119) -/

/-- A waiting step offers the host's next answer to the core, with that answer used up. -/
theorem step_of_answer {s : State} {a : InAnswer} {rest : List InAnswer} (hrun : s.run = .awaitingInput)
    (hans : s.inAnswers = a :: rest) : step s = offerInput (s.setInAnswers rest) a := by
  rw [step_of_awaiting hrun, awaitStep, hans]

theorem step_of_no_answer {s : State} (hrun : s.run = .awaitingInput) (hans : s.inAnswers = []) :
    step s = .next s := by
  rw [step_of_awaiting hrun, awaitStep, hans]

/-- The deferred destination is that of the INPUT at PC, raised or not (R112). -/
theorem deferredDest_of_fetch {s : State} {i : Instr} (hfetch : fetchInstr s = .ok i) :
    deferredDest s = writeAddress s 1 i.modes.1 := by
  simp [deferredDest, hfetch, bind, Except.bind]

theorem completeInput_of_deferred_error {s : State} {e : FatalError} (v : Word)
    (hlate : s.params.inputFaultBeforeRequest = false) (h : deferredDest s = .error e) :
    completeInput s v = .next (s.fatalStop e) := by
  simp [completeInput, hlate, h]

/-- What the completion of an INPUT changes, but for the content of memory and EXT. -/
theorem State.afterInput_eq (s : State) (rest : List InAnswer) (d v : Word) :
    s.afterInput rest d v = { s with
      pc := wrap64 (s.pc.toInt + 2), run := .ready, dst := d, inAnswers := rest,
      mem := (s.afterInput rest d v).mem, ext := (s.afterInput rest d v).ext,
      growths := (s.afterInput rest d v).growths } := rfl

theorem State.read_afterInput_same {s : State} (hmem : s.mem.wf) (rest : List InAnswer) (d v : Word) :
    (s.afterInput rest d v).mem.read d.toNat = v :=
  read_storeWord_same hmem d.toNat v

theorem State.sameMemBut_afterInput (s : State) (rest : List InAnswer) (d v : Word) :
    SameMemBut d.toNat s (s.afterInput rest d v) :=
  s.mem.read_write_other d.toNat v

/-- Settles O24, by the host's answer: a word is stored or the deferred check raises, an error, silence, none. -/
theorem inputCompletionStep : Obligations.InputCompletionStep := by
  intro s hrun hmem
  refine ⟨fun v rest d hans hdest hroom => ?_, fun v rest m1 m2 m3 e hans hlate hfetch herr => ?_,
    fun rest hans hio => ?_, fun rest hans => ?_, step_of_no_answer hrun⟩
  · have hinput : InputDest s d := by
      obtain hearly | ⟨hlate, m1, m2, m3, hfetch, hwrite⟩ := hdest
      · exact .inl hearly
      · exact .inr ⟨hlate, (deferredDest_of_fetch hfetch).trans hwrite⟩
    exact ⟨s.afterInput rest d v, step_eq_afterInput hrun hans hinput hroom, State.read_afterInput_same hmem rest d v,
      s.sameMemBut_afterInput rest d v, s.storeWord_extent d.toNat v, s.afterInput_eq rest d v⟩
  · rw [step_of_awaiting hrun, awaitStep_of_word hrun hans]
    exact completeInput_of_deferred_error (s := s.setInAnswers rest) v hlate
      ((deferredDest_of_fetch hfetch).trans herr)
  · rw [step_of_answer hrun hans, offerInput_error (s := s.setInAnswers rest) hrun]
    exact if_pos hio
  · rw [step_of_answer hrun hans]
    exact offerInput_silent

/-! ### INPUT, request and completion together (R114) -/

/-- An INPUT whose destination can be evaluated makes its request in both variants, and `d` is then the destination that
its completion will use. They differ in DST alone, which the completion sets. -/
theorem exists_request {s : State} {m1 : Mode} (m2 m3 : Mode) {d : Word}
    (hfetch : fetchInstr s = .ok (.input m1 m2 m3)) (hwrite : writeAddress s 1 m1 = .ok d) :
    ∃ dst, execInput m1 s = .next (requestInput (s.setDst dst)) ∧ InputDest (requestInput (s.setDst dst)) d := by
  cases hcheck : s.params.inputFaultBeforeRequest with
  | true => exact ⟨d, execInput_of_dest hcheck hwrite, .inl ⟨hcheck, rfl, writeAddress_nonneg hwrite⟩⟩
  | false =>
    exact ⟨s.dst, execInput_of_deferred hcheck m1, .inr ⟨hcheck, (deferredDest_of_fetch hfetch).trans hwrite⟩⟩

/-- Settles O25: the request, then the completion from the requesting state. -/
theorem inputTwoStepsAgreeInBothVariants : Obligations.InputTwoStepsAgreeInBothVariants := by
  intro s m1 m2 m3 d v rest hrun hen hmem hfetch hwrite hroom hans
  obtain ⟨dst, hexec, hdest⟩ := exists_request m2 m3 hfetch hwrite
  have hrequest : step s = .next (requestInput (s.setDst dst)) := by
    rw [step_of_ready hrun hen, cycle_of_fetch hfetch]
    exact hexec
  have hcomplete := step_eq_afterInput (s := requestInput (s.setDst dst)) rfl hans hdest hroom
  refine ⟨(requestInput (s.setDst dst)).afterInput rest d v, ?_, State.read_afterInput_same hmem rest d v,
    State.sameMemBut_afterInput (requestInput (s.setDst dst)) rest d v, ?_⟩
  · rw [run_succ_of_next 1 hrequest, run_succ_of_next 0 hcomplete, run_zero]
  · rw [hrun]
    rfl

/-! ### OUTPUT (R117, R119) -/

/-- The model's test of the transaction against the statement's (R119). -/
theorem outputFails_iff {s : State} : outputFails s = true ↔ OutputFails s := by
  simp [outputFails, OutputFails]

section Output

variable {m1 : Mode} {s : State}

theorem execOutput_of_error {e : FatalError} (h : readOperand s 1 m1 = .error e) :
    execOutput m1 s = .next (s.fatalStop e) := by
  simp [execOutput, h]

theorem execOutput_of_taken {a : Word} (h : readOperand s 1 m1 = .ok a) (htaken : ¬ OutputFails s) :
    execOutput m1 s = .next ((presentWord s a).advance 2) := by
  simp [execOutput, h, outputFails_iff, htaken]

theorem execOutput_of_failed {a : Word} (h : readOperand s 1 m1 = .ok a) (hfails : OutputFails s) :
    execOutput m1 s = .next ((presentWord s a).fatalStop ioFatal) := by
  simp [execOutput, h, outputFails_iff, hfails]

end Output

/-- R119: a transaction that fails has used up its answer. -/
theorem presentWord_of_fails {s : State} (hfails : OutputFails s) (a : Word) :
    presentWord s a = { s with io := s.io ++ [.out a], outAnswers := s.outAnswers.tail } := by
  simp [presentWord, State.record, hfails.1]

/-- Settles O22: the word is taken, the operand raises, or the transaction fails. -/
theorem outputPresentsOperand : Obligations.OutputPresentsOperand := by
  intro m1 m2 m3 s
  refine ⟨fun a ha htaken => ?_, fun e he => ?_, fun a ha hfails => ?_⟩
  · exact execOutput_of_taken ha htaken
  · exact execOutput_of_error he
  · refine (execOutput_of_failed ha hfails).trans ?_
    rw [presentWord_of_fails hfails]
    rfl

/-! ### The record of channel events (R120) -/

section Events

variable {s t : State}

/-- `i` adds its own event to the record between `s` and `t`: a request if it is an INPUT (R113), its operand if it is
an OUTPUT (R118). -/
def AddsEvent (i : Instr) (s t : State) : Prop :=
  (∃ m1 m2 m3, i = .input m1 m2 m3 ∧ t.run = .awaitingInput ∧ t.io = s.io ++ [.request]) ∨
  (∃ m1 m2 m3 a, i = .output m1 m2 m3 ∧ readOperand s 1 m1 = .ok a ∧ t.io = s.io ++ [.out a])

theorem Completed.io_cases {i : Instr} (h : Completed i s t) : t.io = s.io ∨ AddsEvent i s t := by
  obtain ⟨-, d, v, -, -, rfl⟩ | ⟨m1, m2, m3, a, b, -, -, hjump⟩ | ⟨m1, m2, m3, a, hi, ha, rfl⟩ |
    ⟨m1, m2, m3, a, -, -, rfl⟩ | ⟨m1, m2, m3, hi, hinput⟩ | ⟨m1, m2, m3, -, rfl⟩ := h
  · exact .inl rfl
  · obtain ⟨-, ⟨-, -, rfl⟩ | ⟨-, rfl⟩⟩ | ⟨-, ⟨-, -, rfl⟩ | ⟨-, rfl⟩⟩ := hjump <;> exact .inl rfl
  · exact .inr (.inr ⟨m1, m2, m3, a, hi, ha, rfl⟩)
  · exact .inl rfl
  · obtain ⟨-, d, -, rfl⟩ | ⟨-, rfl⟩ := hinput <;> exact .inr (.inl ⟨m1, m2, m3, hi, rfl, rfl⟩)
  · exact .inl rfl

/-- A failed output transaction has presented its word too (R119). -/
theorem exec_io_cases {i : Instr} (h : exec i s = .next t) : t.io = s.io ∨ AddsEvent i s t := by
  obtain ⟨e, -, rfl⟩ | ⟨m1, m2, m3, a, hi, ha, -, rfl⟩ | hdone := exec_cases h
  · exact .inl rfl
  · exact .inr (.inr ⟨m1, m2, m3, a, hi, ha, rfl⟩)
  · exact hdone.io_cases

/-- The arrival of an input word is no event of the record. -/
theorem awaitStep_io (h : awaitStep s = .next t) (hrun : s.run = .awaitingInput) : t.io = s.io := by
  obtain ⟨rest, rfl⟩ | ⟨rest, -, -, rfl⟩ | ⟨v, rest, -, hdone⟩ := awaitStep_cases hrun h
  · rfl
  · rfl
  · obtain ⟨e, -, rfl, -⟩ | ⟨d, -, -, -, rfl⟩ := completeInput_cases hdone <;> rfl

end Events

/-- Settles O36: only an instruction adds an event, its own. -/
theorem channelEventsInProgramOrder : Obligations.ChannelEventsInProgramOrder := by
  intro s t h
  obtain ⟨-, -, rfl⟩ | ⟨-, -, e, -, rfl⟩ | ⟨hrun, -, i, hfetch, hexec⟩ | ⟨hrun, hawait⟩ | ⟨-, rfl⟩ | ⟨-, rfl⟩ :=
    step_cases h
  · exact .inl rfl
  · exact .inl rfl
  · obtain hsame | ⟨m1, m2, m3, rfl, hwait, hio⟩ | ⟨m1, m2, m3, a, rfl, ha, hio⟩ := exec_io_cases hexec
    · exact .inl hsame
    · exact .inr (.inl ⟨hrun, hwait, hio, m1, m2, m3, hfetch⟩)
    · exact .inr (.inr ⟨hrun, m1, m2, m3, a, hfetch, ha, hio⟩)
  · exact .inl (awaitStep_io hawait hrun)
  · exact .inl rfl
  · exact .inl rfl

/-! ### Runs without waiting (R121)

Every operation but the waiting step commutes with a replacement of the host's coming input answers: it does not look at
them and hands them on. Fetch and the evaluation of operands read PC, RB, memory and the parameters, so in the replaced
state they are the same terms. -/

/-- The outcome with its next state changed by `g`. -/
def mapNext (g : State → State) : Host.Outcome State Fault Refusal → Host.Outcome State Fault Refusal
  | .next t => .next (g t)
  | .fault f => .fault f
  | .refused r => .refused r

section Independence

variable (answers : List InAnswer) (s : State)

theorem memWrite_setInAnswers (k : Slot) (a v : Word) :
    memWrite (s.setInAnswers answers) k a v = (memWrite s k a v).map (·.setInAnswers answers) := by
  by_cases ha : a.toInt < 0
  · rw [memWrite_of_neg _ k v ha, memWrite_of_neg s k v ha]
    rfl
  · cases hroom : Params.capAllows s.params a.toNat with
    | true =>
      rw [memWrite_of_room (s := s.setInAnswers answers) k v (Int.not_lt.mp ha) hroom,
        memWrite_of_room k v (Int.not_lt.mp ha) hroom]
      rfl
    | false =>
      rw [memWrite_of_full (s := s.setInAnswers answers) k v (Int.not_lt.mp ha) hroom,
        memWrite_of_full k v (Int.not_lt.mp ha) hroom]
      rfl

theorem execRRW_setInAnswers (f : Word → Word → Word) (m1 m2 m3 : Mode) :
    execRRW f m1 m2 m3 (s.setInAnswers answers) = mapNext (·.setInAnswers answers) (execRRW f m1 m2 m3 s) := by
  have hops : operandsRRW (s.setInAnswers answers) m1 m2 m3 = operandsRRW s m1 m2 m3 := rfl
  rcases h : operandsRRW s m1 m2 m3 with e | ⟨a, b, d⟩
  · simp only [execRRW, hops, h]
    rfl
  · simp only [execRRW, hops, h, memWrite_setInAnswers]
    rcases memWrite s 3 d (f a b) with (e | c) | t <;> rfl

theorem execJump_setInAnswers (test : Word → Bool) (m1 m2 : Mode) :
    execJump test m1 m2 (s.setInAnswers answers) = mapNext (·.setInAnswers answers) (execJump test m1 m2 s) := by
  have hops : operandsRR (s.setInAnswers answers) m1 m2 = operandsRR s m1 m2 := rfl
  rcases h : operandsRR s m1 m2 with e | ⟨a, b⟩
  · simp only [execJump, hops, h]
    rfl
  · simp only [execJump, jumpTo, hops, h]
    split
    · split <;> rfl
    · rfl

theorem execOutput_setInAnswers (m1 : Mode) :
    execOutput m1 (s.setInAnswers answers) = mapNext (·.setInAnswers answers) (execOutput m1 s) := by
  have hop : readOperand (s.setInAnswers answers) 1 m1 = readOperand s 1 m1 := rfl
  have hfails : outputFails (s.setInAnswers answers) = outputFails s := rfl
  rcases h : readOperand s 1 m1 with e | a
  · simp only [execOutput, hop, h]
    rfl
  · simp only [execOutput, hop, h, hfails]
    split <;> rfl

theorem execSetRb_setInAnswers (m1 : Mode) :
    execSetRb m1 (s.setInAnswers answers) = mapNext (·.setInAnswers answers) (execSetRb m1 s) := by
  have hop : readOperand (s.setInAnswers answers) 1 m1 = readOperand s 1 m1 := rfl
  rcases h : readOperand s 1 m1 with e | a <;> simp only [execSetRb, hop, h] <;> rfl

/-- The request looks at no answer: the first is for the waiting step. -/
theorem execInput_setInAnswers (m1 : Mode) :
    execInput m1 (s.setInAnswers answers) = mapNext (·.setInAnswers answers) (execInput m1 s) := by
  have hdest : writeAddress (s.setInAnswers answers) 1 m1 = writeAddress s 1 m1 := rfl
  rcases h : writeAddress s 1 m1 with e | d <;>
    simp only [execInput, hdest, h, State.setInAnswers_params] <;> split <;> rfl

theorem exec_setInAnswers (i : Instr) :
    exec i (s.setInAnswers answers) = mapNext (·.setInAnswers answers) (exec i s) := by
  cases i with
  | add m1 m2 m3 => exact execRRW_setInAnswers answers s addWord m1 m2 m3
  | mul m1 m2 m3 => exact execRRW_setInAnswers answers s mulWord m1 m2 m3
  | lt m1 m2 m3 => exact execRRW_setInAnswers answers s ltWord m1 m2 m3
  | eq m1 m2 m3 => exact execRRW_setInAnswers answers s eqWord m1 m2 m3
  | input m1 _ _ => exact execInput_setInAnswers answers s m1
  | output m1 _ _ => exact execOutput_setInAnswers answers s m1
  | jnz m1 m2 _ => exact execJump_setInAnswers answers s isNonZero m1 m2
  | jz m1 m2 _ => exact execJump_setInAnswers answers s isZero m1 m2
  | setRb m1 _ _ => exact execSetRb_setInAnswers answers s m1
  | halt _ _ _ => rfl

theorem cycle_setInAnswers :
    cycle (s.setInAnswers answers) = mapNext (·.setInAnswers answers) (cycle s) := by
  have hfetch : fetchInstr (s.setInAnswers answers) = fetchInstr s := rfl
  rcases h : fetchInstr s with e | i
  · rw [cycle_of_fetch_error h, cycle_of_fetch_error (hfetch.trans h)]
    rfl
  · rw [cycle_of_fetch h, cycle_of_fetch (hfetch.trans h), exec_setInAnswers]

/-- R121 for one step: a core that does not wait neither looks at the host's coming answers nor uses them up. -/
theorem step_setInAnswers {s : State} (hrun : s.run ≠ .awaitingInput) :
    step (s.setInAnswers answers) = mapNext (·.setInAnswers answers) (step s) := by
  cases h : s.run with
  | ready =>
    cases hen : s.runEnable with
    | true =>
      rw [step_of_ready h hen, step_of_ready (s := s.setInAnswers answers) h hen, cycle_setInAnswers]
    | false =>
      rw [step_of_paused h hen, step_of_paused (s := s.setInAnswers answers) h hen]
      rfl
  | awaitingInput => exact absurd h hrun
  | halted =>
    rw [step_of_halted h, step_of_halted (s := s.setInAnswers answers) h]
    rfl
  | faulted =>
    rw [step_of_faulted h, step_of_faulted (s := s.setInAnswers answers) h]
    rfl

end Independence

/-- Settles O46, by induction on the number of steps. -/
theorem runWithoutWaitingIgnoresInput : Obligations.RunWithoutWaitingIgnoresInput := by
  intro n s t answers hnowait h
  induction n generalizing s with
  | zero =>
    cases h
    rfl
  | succ n ih =>
    obtain ⟨u, hstep, hrest⟩ := run_succ_eq_next h
    have hfirst : s.run ≠ .awaitingInput := hnowait 0 (by omega) s (run_zero s)
    have hlater : ∀ k, k < n → ∀ x : State, Host.Core.run Sys2Proof.core k u = .next x → x.run ≠ .awaitingInput :=
      fun k hk x hx => hnowait (k + 1) (by omega) x ((run_succ_of_next k hstep).trans hx)
    have hstep' : step (s.setInAnswers answers) = .next (u.setInAnswers answers) := by
      rw [step_setInAnswers answers hfirst, hstep]
      rfl
    exact (run_succ_of_next n hstep').trans (ih u hlater hrest)

end Sys2Proof.Machine
end

section
/-! The statements of spec/43_jumps.md: JNZ (R130) and JZ (R131). What a jump does once its operands are evaluated is
said once for every test (R132), and each instruction is that with its own test. -/

namespace Sys2Proof.Machine

open Sys2Proof

theorem jumpTo_of_nonneg (s : State) {b : Word} (hb : 0 ≤ b.toInt) : jumpTo s b = .next (s.setPc b) :=
  if_neg (Int.not_lt.mpr hb)

theorem jumpTo_of_neg (s : State) {b : Word} (hb : b.toInt < 0) :
    jumpTo s b = .next (s.fatalStop (negativeAddress b 2)) :=
  if_pos hb

section Jump

variable {test : Word → Bool} {m1 m2 : Mode} {s : State} {a b : Word}

/-- The test alone decides between the jump and PC + 3. -/
theorem execJump_of_operands (ha : readOperand s 1 m1 = .ok a) (hb : readOperand s 2 m2 = .ok b) :
    execJump test m1 m2 s = if test a then jumpTo s b else .next (s.advance 3) := by
  simp [execJump, operandsRR_eq_ok.mpr ⟨ha, hb⟩]

theorem execJump_of_taken (ha : readOperand s 1 m1 = .ok a) (hb : readOperand s 2 m2 = .ok b)
    (htest : test a = true) : execJump test m1 m2 s = jumpTo s b :=
  (execJump_of_operands ha hb).trans (if_pos htest)

/-- A jump that is not taken does not check its target (R132). -/
theorem execJump_of_not_taken (ha : readOperand s 1 m1 = .ok a) (hb : readOperand s 2 m2 = .ok b)
    (htest : ¬ test a = true) : execJump test m1 m2 s = .next (s.advance 3) :=
  (execJump_of_operands ha hb).trans (if_neg htest)

end Jump

/-- Settles O18: the operands raise, or the test of JNZ passes and the sign of the target decides, or it fails. -/
theorem jnzJumpsWhenNonZero : Obligations.JnzJumpsWhenNonZero := by
  intro m1 m2 m3 s
  refine ⟨fun e herr => execJump_of_error herr, fun a b ha hb => ?_⟩
  refine ⟨fun hne hpos => ?_, fun hne hneg => ?_, fun hz => ?_⟩
  · exact (execJump_of_taken ha hb ((isNonZero_eq a).mpr hne)).trans (jumpTo_of_nonneg s hpos)
  · exact (execJump_of_taken ha hb ((isNonZero_eq a).mpr hne)).trans (jumpTo_of_neg s hneg)
  · exact execJump_of_not_taken ha hb fun htest => (isNonZero_eq a).mp htest hz

/-- Settles O19: as JNZ, with the test of JZ. -/
theorem jzJumpsWhenZero : Obligations.JzJumpsWhenZero := by
  intro m1 m2 m3 s
  refine ⟨fun e herr => execJump_of_error herr, fun a b ha hb => ?_⟩
  refine ⟨fun hz hpos => ?_, fun hz hneg => ?_, fun hne => ?_⟩
  · exact (execJump_of_taken ha hb ((isZero_eq a).mpr hz)).trans (jumpTo_of_nonneg s hpos)
  · exact (execJump_of_taken ha hb ((isZero_eq a).mpr hz)).trans (jumpTo_of_neg s hneg)
  · exact execJump_of_not_taken ha hb fun htest => hne ((isZero_eq a).mp htest)

end Sys2Proof.Machine
end

section
/-! The statements of spec/44_system.md: SET_RB (R140) and HALT (R141). That a halted core stays as it is follows from
one step: a state that its own step gives back is where every run from it ends. -/

namespace Sys2Proof.Machine

open Sys2Proof

/-! ### SET_RB (R140) -/

section SetRb

variable {m1 : Mode} {s : State}

theorem execSetRb_of_error {e : FatalError} (h : readOperand s 1 m1 = .error e) :
    execSetRb m1 s = .next (s.fatalStop e) := by
  simp [execSetRb, h]

theorem execSetRb_of_operand {a : Word} (h : readOperand s 1 m1 = .ok a) :
    execSetRb m1 s = .next ((s.setRb (wrap64 (s.rb.toInt + a.toInt))).advance 2) := by
  simp [execSetRb, h]

end SetRb

/-- Settles O20: the operand, read in the state before, decides between the sum and the fatal stop. -/
theorem setRbAddsToRb : Obligations.SetRbAddsToRb :=
  fun _ _ _ _ => ⟨fun _ ha => execSetRb_of_operand ha, fun _ he => execSetRb_of_error he⟩

/-! ### HALT (R141) -/

/-- A state that its own step gives back is where a run of any length from it ends. -/
theorem run_of_step_self {s : State} (h : step s = .next s) (n : Nat) :
    Host.Core.run Sys2Proof.core n s = .next s := by
  induction n with
  | zero => exact run_zero s
  | succ n ih => exact (run_succ_of_next n h).trans ih

/-- Settles O21: RUN is set by definition, a halted core's step gives back its state, and a reset sets RUN (R180). -/
theorem haltStopsForGood : Obligations.HaltStopsForGood := by
  intro m1 m2 m3 s
  refine ⟨rfl, fun n => ?_, fun image => ?_⟩
  · exact run_of_step_self (step_of_halted rfl) n
  · obtain ⟨-, -, hready, -⟩ := resetLoadsImage { s with run := .halted } image
    exact hready

end Sys2Proof.Machine
end

section
/-! The statements of spec/60_exceptions.md: the fatal stop and what it records (R151 to R157), the ended runs (R156)
and the transitions of RUN (R164). Every step into FAULTED has one of four sources, `FaultingStep`; that is proved
once, and what a fault changes and what it records are read off the sources. -/

namespace Sys2Proof.Machine

open Sys2Proof

/-! ### Ended runs (R141, R156) -/

/-- Settles O30: both ends give back their state at each step. -/
theorem endedRunsStayEnded : Obligations.EndedRunsStayEnded := by
  intro n s hended
  obtain hrun | hrun := hended
  · exact run_of_step_self (step_of_halted hrun) n
  · exact run_of_step_self (step_of_faulted hrun) n

/-! ### The sources of an error -/

/-- The slot of the write parameter, for the instructions that have one (R62): 1 for INPUT, 3 for format RRW. -/
def writeSlot (i : Instr) : Slot := if i.opcode = .input then 1 else 3

/-- What one cycle (R80) can raise before any transaction: the error of fetch or decode (R81), of a read parameter (R84),
of the write parameter (R85), or of the negative target of a taken jump (R132). -/
inductive CycleError (s : State) : FatalError → Prop
  | fetch {e : FatalError} (herr : fetchInstr s = .error e) : CycleError s e
  | read {k : Slot} {m : Mode} {e : FatalError} (hk : k ≠ 0) (herr : readOperand s k m = .error e) : CycleError s e
  | write {i : Instr} {m : Mode} {e : FatalError} (hfetch : fetchInstr s = .ok i) (hmode : i.writeMode = some m)
      (herr : writeAddress s (writeSlot i) m = .error e) : CycleError s e
  | target {i : Instr} {b : Word} (hfetch : fetchInstr s = .ok i) (hjump : i.opcode = .jnz ∨ i.opcode = .jz)
      (hb : readOperand s 2 i.modes.2.1 = .ok b) (hneg : b.toInt < 0) : CycleError s (negativeAddress b 2)

/-- What the completion of an INPUT can raise (R112): the error of a latched destination that is negative, or of the
destination that the deferred variant evaluates. -/
def CompletionError (s : State) (e : FatalError) : Prop :=
  (s.params.inputFaultBeforeRequest = true ∧ s.dst.toInt < 0 ∧ e = negativeAddress s.dst 1) ∨
    (s.params.inputFaultBeforeRequest = false ∧ deferredDest s = .error e)

/-- The steps from `s` into FAULTED, by the source of the error: a cycle, OUTPUT's transaction (R119), the completion of
INPUT (R112), INPUT's transaction (R119). -/
inductive FaultingStep (s : State) : State → Prop
  | cycle {e : FatalError} (hrun : s.run = .ready) (herr : CycleError s e) : FaultingStep s (s.fatalStop e)
  | output {m1 m2 m3 : Mode} {a : Word} (hrun : s.run = .ready) (hfetch : fetchInstr s = .ok (.output m1 m2 m3))
      (ha : readOperand s 1 m1 = .ok a) (hfails : OutputFails s) : FaultingStep s ((presentWord s a).fatalStop ioFatal)
  | completion {v : Word} {rest : List InAnswer} {e : FatalError} (hrun : s.run = .awaitingInput)
      (hans : s.inAnswers = .word v :: rest) (herr : CompletionError s e) :
      FaultingStep s ((s.setInAnswers rest).fatalStop e)
  | input {rest : List InAnswer} (hrun : s.run = .awaitingInput) (hans : s.inAnswers = .error :: rest)
      (hio : s.params.ioErrors = true) : FaultingStep s ((s.setInAnswers rest).fatalStop ioFatal)

section Sources

variable {s t : State}

/-- Format RRW raises what its three parameters raise (R100). -/
theorem execRRW_faulted {i : Instr} {f : Word → Word → Word} {m1 m2 m3 : Mode} (hfetch : fetchInstr s = .ok i)
    (hmode : i.writeMode = some m3) (hslot : writeSlot i = 3) (h : execRRW f m1 m2 m3 s = .next t)
    (hrun : s.run = .ready) (ht : t.run = .faulted) : ∃ e, CycleError s e ∧ t = s.fatalStop e := by
  obtain ⟨e, herr, rfl⟩ | ⟨a, b, d, -, -, -, -, -, rfl⟩ := execRRW_cases h
  · refine ⟨e, ?_, rfl⟩
    obtain h1 | ⟨-, h2⟩ | ⟨-, -, h3⟩ := operandsRRW_eq_error.mp herr
    · exact .read (by decide) h1
    · exact .read (by decide) h2
    · exact .write hfetch hmode (hslot ▸ h3)
  · simp [hrun] at ht

/-- JNZ and JZ raise what their operands raise, or reject the target of a taken jump (R132). -/
theorem execJump_faulted {i : Instr} {test : Word → Bool} {m1 : Mode} (hfetch : fetchInstr s = .ok i)
    (hjump : i.opcode = .jnz ∨ i.opcode = .jz) (h : execJump test m1 i.modes.2.1 s = .next t)
    (hrun : s.run = .ready) (ht : t.run = .faulted) : ∃ e, CycleError s e ∧ t = s.fatalStop e := by
  obtain ⟨e, herr, rfl⟩ | ⟨a, b, -, hb, ⟨-, hneg, rfl⟩ | ⟨-, -, rfl⟩ | ⟨-, rfl⟩⟩ := execJump_cases h
  · refine ⟨e, ?_, rfl⟩
    obtain h1 | ⟨-, h2⟩ := operandsRR_eq_error.mp herr
    · exact .read (by decide) h1
    · exact .read (by decide) h2
  · exact ⟨_, .target hfetch hjump hb hneg, rfl⟩
  · simp [hrun] at ht
  · simp [hrun] at ht

/-- An instruction that faults has raised an error of its own, or it is an OUTPUT whose transaction failed. -/
theorem exec_faultingStep {i : Instr} (h : exec i s = .next t) (hfetch : fetchInstr s = .ok i) (hrun : s.run = .ready)
    (ht : t.run = .faulted) : FaultingStep s t := by
  have raised : (∃ e, CycleError s e ∧ t = s.fatalStop e) → FaultingStep s t := by
    rintro ⟨e, herr, rfl⟩
    exact .cycle hrun herr
  cases i with
  | add m1 m2 m3 | mul m1 m2 m3 | lt m1 m2 m3 | eq m1 m2 m3 => exact raised (execRRW_faulted hfetch rfl rfl h hrun ht)
  | jnz m1 m2 m3 => exact raised (execJump_faulted hfetch (.inl rfl) h hrun ht)
  | jz m1 m2 m3 => exact raised (execJump_faulted hfetch (.inr rfl) h hrun ht)
  | input m1 m2 m3 =>
    obtain ⟨-, e, herr, rfl⟩ | ⟨-, d, -, rfl⟩ | ⟨-, rfl⟩ := execInput_cases h
    · exact .cycle hrun (.write hfetch rfl herr)
    · simp at ht
    · simp at ht
  | output m1 m2 m3 =>
    obtain ⟨e, herr, rfl⟩ | ⟨a, ha, ⟨hfails, rfl⟩ | ⟨-, rfl⟩⟩ := execOutput_cases h
    · exact .cycle hrun (.read (by decide) herr)
    · exact .output hrun hfetch ha (outputFails_iff.mp hfails)
    · simp [hrun] at ht
  | setRb m1 m2 m3 =>
    obtain ⟨e, herr, rfl⟩ | ⟨a, -, rfl⟩ := execSetRb_cases h
    · exact .cycle hrun (.read (by decide) herr)
    · simp [hrun] at ht
  | halt m1 m2 m3 =>
    cases h
    simp at ht

/-- A completion raises or ends READY. Its store raises at a latched destination only: the deferred one has been checked
(R85). -/
theorem completeInput_raises_or_ready {v : Word} (h : completeInput s v = .next t) :
    (∃ e, CompletionError s e ∧ t = s.fatalStop e) ∨ t.run = .ready := by
  cases hcheck : s.params.inputFaultBeforeRequest with
  | true =>
    simp only [completeInput, hcheck, if_true] at h
    obtain ⟨hneg, rfl⟩ | ⟨-, -, rfl⟩ := settle_storeInput_cases h
    · exact .inl ⟨_, .inl ⟨hcheck, hneg, rfl⟩, rfl⟩
    · exact .inr rfl
  | false =>
    cases hdest : deferredDest s with
    | error e =>
      rw [completeInput_of_deferred_error v hcheck hdest] at h
      cases h
      exact .inl ⟨e, .inr ⟨hcheck, hdest⟩, rfl⟩
    | ok d =>
      have hd : 0 ≤ d.toInt := InputDest.nonneg (.inr ⟨hcheck, hdest⟩)
      simp only [completeInput, hcheck, hdest] at h
      obtain ⟨hneg, -⟩ | ⟨-, -, rfl⟩ := settle_storeInput_cases h
      · exact absurd hneg (Int.not_lt.mpr hd)
      · exact .inr rfl

/-- A waiting step by the host's answer (R112, R116, R119): a word, an error, or no answer that counts, which is used up
all the same (log 5, log 13). -/
theorem awaitStep_answer_cases (hrun : s.run = .awaitingInput) (h : awaitStep s = .next t) :
    (∃ v rest, s.inAnswers = .word v :: rest ∧ completeInput (s.setInAnswers rest) v = .next t) ∨
    (∃ rest, s.inAnswers = .error :: rest ∧ s.params.ioErrors = true ∧
      t = (s.setInAnswers rest).fatalStop ioFatal) ∨
    ((¬ ∃ v rest, s.inAnswers = .word v :: rest) ∧ t = s.setInAnswers s.inAnswers.tail) := by
  rw [← step_of_awaiting hrun] at h
  cases hans : s.inAnswers with
  | nil =>
    rw [step_of_no_answer hrun hans] at h
    cases h
    exact .inr (.inr ⟨by simp, by rw [List.tail_nil, ← hans]; rfl⟩)
  | cons a rest =>
    rw [step_of_answer hrun hans] at h
    cases a with
    | word v => exact .inl ⟨v, rest, rfl, by rwa [offerInput_word (s := s.setInAnswers rest) hrun] at h⟩
    | error =>
      rw [offerInput_error (s := s.setInAnswers rest) hrun] at h
      split at h
      · rename_i hio
        cases h
        exact .inr (.inl ⟨rest, rfl, hio, rfl⟩)
      · cases h
        exact .inr (.inr ⟨by simp, rfl⟩)
    | silent =>
      rw [offerInput_silent] at h
      cases h
      exact .inr (.inr ⟨by simp, rfl⟩)

theorem awaitStep_faultingStep (hrun : s.run = .awaitingInput) (h : awaitStep s = .next t) (ht : t.run = .faulted) :
    FaultingStep s t := by
  obtain ⟨v, rest, hans, hdone⟩ | ⟨rest, hans, hio, rfl⟩ | ⟨-, rfl⟩ := awaitStep_answer_cases hrun h
  · obtain ⟨e, herr, rfl⟩ | hready := completeInput_raises_or_ready hdone
    · exact .completion hrun hans herr
    · simp [hready] at ht
  · exact .input hrun hans hio
  · simp [hrun] at ht

/-- Every step into FAULTED has one of the four sources. -/
theorem step_faultingStep (h : step s = .next t) (hrun : s.run ≠ .faulted) (ht : t.run = .faulted) :
    FaultingStep s t := by
  obtain ⟨-, -, rfl⟩ | ⟨hready, -, e, herr, rfl⟩ | ⟨hready, -, i, hfetch, hexec⟩ | ⟨hwait, hawait⟩ | ⟨-, rfl⟩ |
    ⟨-, rfl⟩ := step_cases h
  · exact absurd ht hrun
  · exact .cycle hready (.fetch herr)
  · exact exec_faultingStep hexec hfetch hready ht
  · exact awaitStep_faultingStep hwait hawait ht
  · exact absurd ht hrun
  · exact absurd ht hrun

end Sources

/-! ### What a fault changes (R154, R155, R119) -/

theorem Cause.code_range (c : Cause) : 1 ≤ c.code.toNat ∧ c.code.toNat ≤ 5 := by cases c <;> decide

theorem Cause.code_eq_five {c : Cause} : c.code = 5 ↔ c = .ioError := by cases c <;> decide

theorem CycleError.cause_ne_ioError {s : State} {e : FatalError} (h : CycleError s e) : e.cause ≠ .ioError := by
  cases h with
  | fetch herr => exact fetchInstr_error_cause herr
  | read _ herr => simp [readOperand_error_cause herr]
  | write _ _ herr => obtain hcause | hcause := writeAddress_error_cause herr <;> simp [hcause]
  | target _ _ _ _ => simp [negativeAddress]

theorem CompletionError.cause_ne_ioError {s : State} {e : FatalError} (h : CompletionError s e) :
    e.cause ≠ .ioError := by
  obtain ⟨-, -, rfl⟩ | ⟨-, herr⟩ := h
  · simp [negativeAddress]
  · exact deferredDest_error_cause herr

/-- Settles O29, by the source of the error: only the two failed transactions raise IoError, and only OUTPUT's adds an
event. -/
theorem fatalStopIsPrecise : Obligations.FatalStopIsPrecise := by
  intro s t hrun h ht
  cases step_faultingStep h hrun ht with
  | cycle hready herr =>
    have hwait : s.run ≠ .awaitingInput := by simp [hready]
    have hcause := mt Cause.code_eq_five.mp herr.cause_ne_ioError
    exact ⟨rfl, Cause.code_range _, fun _ => ⟨rfl, rfl⟩, fun h5 => absurd h5 hcause, fun _ => rfl,
      fun hw => absurd hw hwait⟩
  | @output m1 m2 m3 a hready hfetch ha hfails =>
    have hwait : s.run ≠ .awaitingInput := by simp [hready]
    rw [presentWord_of_fails hfails]
    exact ⟨rfl, Cause.code_range _, fun hne => absurd rfl hne,
      fun _ => ⟨hfails.1, fun _ => ⟨rfl, m1, m2, m3, a, hfetch, ha, rfl⟩, fun hw => absurd hw hwait⟩,
      fun _ => rfl, fun hw => absurd hw hwait⟩
  | completion hwait hans herr =>
    have hready : s.run ≠ .ready := by simp [hwait]
    have hcause := mt Cause.code_eq_five.mp herr.cause_ne_ioError
    exact ⟨rfl, Cause.code_range _, fun _ => ⟨rfl, rfl⟩, fun h5 => absurd h5 hcause, fun hr => absurd hr hready,
      fun _ => by simp [hans]⟩
  | input hwait hans hio =>
    have hready : s.run ≠ .ready := by simp [hwait]
    exact ⟨rfl, Cause.code_range _, fun hne => absurd rfl hne,
      fun _ => ⟨hio, fun hr => absurd hr hready, fun _ => ⟨rfl, rfl⟩⟩, fun hr => absurd hr hready,
      fun _ => by simp [hans]⟩

/-! ### The transitions of RUN (R164) -/

theorem opcode_ne_halt_of_isRRW {i : Instr} (hrrw : i.isRRW = true) : i.opcode ≠ .halt := by
  cases i with
  | add _ _ _ | mul _ _ _ | lt _ _ _ | eq _ _ _ => simp [Instr.opcode]
  | input _ _ _ | output _ _ _ | jnz _ _ _ | jz _ _ _ | setRb _ _ _ | halt _ _ _ => cases hrrw

/-- R164's rows for a completed instruction. -/
theorem Completed.run_cases {i : Instr} {s t : State} (h : Completed i s t) :
    (t.run = s.run ∧ i.opcode ≠ .input ∧ i.opcode ≠ .halt) ∨
    (t.run = .awaitingInput ∧ i.opcode = .input) ∨ (t.run = .halted ∧ i.opcode = .halt) := by
  obtain ⟨hrrw, d, v, -, -, rfl⟩ | ⟨m1, m2, m3, a, b, -, -, hjump⟩ | ⟨m1, m2, m3, a, rfl, -, rfl⟩ |
    ⟨m1, m2, m3, a, rfl, -, rfl⟩ | ⟨m1, m2, m3, rfl, hinput⟩ | ⟨m1, m2, m3, rfl, rfl⟩ := h
  · exact .inl ⟨rfl, opcode_ne_input_of_isRRW hrrw, opcode_ne_halt_of_isRRW hrrw⟩
  · obtain ⟨rfl, ⟨-, -, rfl⟩ | ⟨-, rfl⟩⟩ | ⟨rfl, ⟨-, -, rfl⟩ | ⟨-, rfl⟩⟩ := hjump <;>
      exact .inl ⟨rfl, nofun, nofun⟩
  · exact .inl ⟨rfl, nofun, nofun⟩
  · exact .inl ⟨rfl, nofun, nofun⟩
  · obtain ⟨-, d, -, rfl⟩ | ⟨-, rfl⟩ := hinput <;> exact .inr (.inl ⟨rfl, rfl⟩)
  · exact .inr (.inr ⟨rfl, rfl⟩)

/-- Under the invariant a latched destination is an address (R36 (b)), so only the deferred check can raise, and it
raises for the INPUT at PC. -/
theorem CompletionError.deferred {s : State} {e : FatalError} (h : CompletionError s e) (hs : s.Inv)
    (hrun : s.run = .awaitingInput) :
    s.params.inputFaultBeforeRequest = false ∧
      ∃ m1 m2 m3, fetchInstr s = .ok (.input m1 m2 m3) ∧ writeAddress s 1 m1 = .error e := by
  obtain ⟨m1, m2, m3, hfetch, hlatched⟩ := hs.awaiting hrun
  obtain ⟨hearly, hneg, -⟩ | ⟨hlate, herr⟩ := h
  · exact absurd hneg (Int.not_lt.mpr (hlatched hearly).1)
  · exact ⟨hlate, m1, m2, m3, hfetch, (deferredDest_of_fetch hfetch).symm.trans herr⟩

/-- Settles O31, by run state; a step from READY by the completed instruction, a waiting step by the host's answer. -/
theorem runStateTransitions : Obligations.RunStateTransitions := by
  refine ⟨fun _ _ => rfl, fun s t hs h => ?_⟩
  obtain ⟨hrun, hen, rfl⟩ | ⟨hrun, hen, e, -, rfl⟩ | ⟨hrun, hen, i, hfetch, hexec⟩ | ⟨hrun, hawait⟩ | ⟨hrun, rfl⟩ |
    ⟨hrun, rfl⟩ := step_cases h
  · exact .inl ⟨hrun, hrun, .inl ⟨hen, rfl⟩⟩
  · exact .inr (.inr (.inr (.inl ⟨hrun, rfl, hen⟩)))
  · by_cases ht : t.run = .faulted
    · exact .inr (.inr (.inr (.inl ⟨hrun, ht, hen⟩)))
    · obtain ⟨hsame, hinput, hhalt⟩ | ⟨hwait, hinput⟩ | ⟨hend, hhalt⟩ := (exec_completed hexec ht).run_cases
      · exact .inl ⟨hrun, hsame.trans hrun, .inr ⟨i, hfetch, hinput, hhalt⟩⟩
      · exact .inr (.inl ⟨hrun, hwait, i, hfetch, hinput⟩)
      · exact .inr (.inr (.inl ⟨hrun, hend, i, hfetch, hhalt⟩))
  · obtain ⟨v, rest, hans, hdone⟩ | ⟨rest, hans, hio, rfl⟩ | ⟨hnone, rfl⟩ := awaitStep_answer_cases hrun hawait
    · obtain ⟨e, herr, rfl⟩ | hready := completeInput_raises_or_ready hdone
      · obtain ⟨hlate, m1, m2, m3, hfetch, hwrite⟩ := CompletionError.deferred (s := s) herr hs hrun
        exact .inr (.inr (.inr (.inr (.inr (.inl ⟨hrun, rfl, .inr
          ⟨v, rest, m1, m2, m3, e, hans, hlate, hfetch, hwrite⟩⟩)))))
      · exact .inr (.inr (.inr (.inr (.inl ⟨hrun, hready, v, rest, hans⟩))))
    · exact .inr (.inr (.inr (.inr (.inr (.inl ⟨hrun, rfl, .inl ⟨rest, hans, hio⟩⟩)))))
    · exact .inr (.inr (.inr (.inr (.inr (.inr (.inl ⟨hrun, hrun, rfl, hnone⟩))))))
  · exact .inr (.inr (.inr (.inr (.inr (.inr (.inr (.inl ⟨hrun, rfl⟩)))))))
  · exact .inr (.inr (.inr (.inr (.inr (.inr (.inr (.inr ⟨hrun, rfl⟩)))))))

/-! ### What a fault records (R151, R152) -/

section Records

variable {s : State}

/-- `a` is an address that slot `k` asks for: that of its parameter word (R82), or what that word gives under POSITION or
RELATIVE (R84, R85). -/
def SlotAddress (s : State) (k : Slot) (a : Word) : Prop :=
  a = wrap64 (s.pc.toInt + k.val) ∨ ∃ p, paramWord s k = .ok p ∧ (a = p ∨ a = relativeAddr s p)

/-- `b` is the target of the JNZ or JZ at PC (R132). -/
def JumpTarget (s : State) (b : Word) : Prop :=
  ∃ i, fetchInstr s = .ok i ∧ (i.opcode = .jnz ∨ i.opcode = .jz) ∧ readOperand s 2 i.modes.2.1 = .ok b

/-- What an error raised in `s` records beside its cause (R152). -/
def RecordsCause (s : State) (e : FatalError) : Prop :=
  match e.cause with
  | .unknownOpcode => 0 ≤ s.pc.toInt ∧ e.info = s.mem.read s.pc.toNat ∧ e.slot = 0 ∧
      decode s.params.strictUpperDigits (s.mem.read s.pc.toNat) = .error .unknownOpcode
  | .unknownMode => 0 ≤ s.pc.toInt ∧ e.info = s.mem.read s.pc.toNat ∧
      decode s.params.strictUpperDigits (s.mem.read s.pc.toNat) = .error (.unknownMode e.slot)
  | .negativeAddress => e.info.toInt < 0 ∧ (e.slot = 0 → e.info = s.pc) ∧
      (e.slot ≠ 0 → e.info = wrap64 (s.pc.toInt + e.slot.val) ∨
        (∃ p, paramWord s e.slot = .ok p ∧ (e.info = p ∨ e.info = relativeAddr s p)) ∨
        (e.slot = 2 ∧ JumpTarget s e.info))
  | .immediateWrite => ∃ i, fetchInstr s = .ok i ∧ i.writeMode = some .immediate ∧
      e.slot = writeSlot i ∧ paramWord s e.slot = .ok e.info
  | .ioError => e.info = 0 ∧ e.slot = 0

theorem recordsCause_of_slotAddress {k : Slot} {a : Word} (hk : k ≠ 0) (hneg : a.toInt < 0)
    (ha : SlotAddress s k a) : RecordsCause s (negativeAddress a k) :=
  ⟨hneg, fun h0 => absurd h0 hk, fun _ => ha.imp_right .inl⟩

theorem recordsCause_of_jumpTarget {b : Word} (hneg : b.toInt < 0) (hb : JumpTarget s b) :
    RecordsCause s (negativeAddress b 2) :=
  ⟨hneg, nofun, fun _ => .inr (.inr ⟨rfl, hb⟩)⟩

/-- R81 and R63, the failing case: PC is no address, or the decoder rejects the word there. -/
theorem fetchInstr_error_cases {e : FatalError} (h : fetchInstr s = .error e) :
    (s.pc.toInt < 0 ∧ e = negativeAddress s.pc 0) ∨
    (0 ≤ s.pc.toInt ∧ ∃ d, decode s.params.strictUpperDigits (s.mem.read s.pc.toNat) = .error d ∧
      e = decodeFatal (s.mem.read s.pc.toNat) d) := by
  by_cases hneg : s.pc.toInt < 0
  · exact .inl ⟨hneg, Except.error.inj (h.symm.trans (fetchInstr_of_neg_pc hneg))⟩
  · have hpc := Int.not_lt.mp hneg
    cases hdec : decode s.params.strictUpperDigits (s.mem.read s.pc.toNat) with
    | error d => exact .inr ⟨hpc, d, rfl, Except.error.inj (h.symm.trans (fetchInstr_of_decode_error hpc hdec))⟩
    | ok i => cases h.symm.trans (fetchInstr_eq_ok.mpr ⟨hpc, hdec⟩)

theorem recordsCause_of_fetch {e : FatalError} (h : fetchInstr s = .error e) : RecordsCause s e := by
  obtain ⟨hneg, rfl⟩ | ⟨hpc, d, hdec, rfl⟩ := fetchInstr_error_cases h
  · exact ⟨hneg, fun _ => rfl, fun h0 => absurd rfl h0⟩
  · cases d with
    | unknownOpcode => exact ⟨hpc, rfl, rfl, hdec⟩
    | unknownMode k => exact ⟨hpc, rfl, hdec⟩

/-- R82, the failing case. -/
theorem paramWord_error {k : Slot} {e : FatalError} (h : paramWord s k = .error e) :
    ∃ a, SlotAddress s k a ∧ a.toInt < 0 ∧ e = negativeAddress a k := by
  obtain ⟨hneg, he⟩ := load_eq_error.mp h
  exact ⟨_, .inl rfl, hneg, he⟩

theorem checkDest_eq_error {k : Slot} {d : Word} {e : FatalError} :
    checkDest k d = .error e ↔ d.toInt < 0 ∧ e = negativeAddress d k := by
  by_cases hneg : d.toInt < 0
  · simp [checkDest_of_neg k hneg, hneg, eq_comm]
  · simp [checkDest_of_nonneg k (Int.not_lt.mp hneg), hneg]

/-- R84, the failing case: some address that the slot asks for is negative. -/
theorem readOperand_error {k : Slot} {m : Mode} {e : FatalError} (h : readOperand s k m = .error e) :
    ∃ a, SlotAddress s k a ∧ a.toInt < 0 ∧ e = negativeAddress a k := by
  cases hp : paramWord s k with
  | error e' =>
    cases h.symm.trans (readOperand_of_param_error hp m)
    exact paramWord_error hp
  | ok p =>
    cases m with
    | position =>
      obtain ⟨hneg, he⟩ := load_eq_error.mp ((readOperand_position_of_param hp).symm.trans h)
      exact ⟨_, .inr ⟨p, hp, .inl rfl⟩, hneg, he⟩
    | immediate => cases h.symm.trans (readOperand_immediate_of_param hp)
    | relative =>
      obtain ⟨hneg, he⟩ := load_eq_error.mp ((readOperand_relative_of_param hp).symm.trans h)
      exact ⟨_, .inr ⟨p, hp, .inr rfl⟩, hneg, he⟩

/-- R85, the failing case: some address that the slot asks for is negative, or the mode is IMMEDIATE. -/
theorem writeAddress_error {k : Slot} {m : Mode} {e : FatalError} (h : writeAddress s k m = .error e) :
    (∃ a, SlotAddress s k a ∧ a.toInt < 0 ∧ e = negativeAddress a k) ∨
    (m = .immediate ∧ ∃ p, paramWord s k = .ok p ∧ e = { cause := .immediateWrite, info := p, slot := k }) := by
  cases hp : paramWord s k with
  | error e' =>
    cases h.symm.trans (writeAddress_of_param_error hp m)
    exact .inl (paramWord_error hp)
  | ok p =>
    cases m with
    | position =>
      obtain ⟨hneg, he⟩ := checkDest_eq_error.mp ((writeAddress_position_of_param hp).symm.trans h)
      exact .inl ⟨_, .inr ⟨p, hp, .inl rfl⟩, hneg, he⟩
    | immediate => exact .inr ⟨rfl, p, rfl, Except.error.inj (h.symm.trans (writeAddress_immediate_of_param hp))⟩
    | relative =>
      obtain ⟨hneg, he⟩ := checkDest_eq_error.mp ((writeAddress_relative_of_param hp).symm.trans h)
      exact .inl ⟨_, .inr ⟨p, hp, .inr rfl⟩, hneg, he⟩

theorem writeSlot_ne_zero (i : Instr) : writeSlot i ≠ 0 := by
  unfold writeSlot
  split <;> decide

theorem CycleError.recordsCause {e : FatalError} (h : CycleError s e) : RecordsCause s e := by
  cases h with
  | fetch herr => exact recordsCause_of_fetch herr
  | read hk herr =>
    obtain ⟨a, ha, hneg, rfl⟩ := readOperand_error herr
    exact recordsCause_of_slotAddress hk hneg ha
  | @write i _ _ hfetch hmode herr =>
    obtain ⟨a, ha, hneg, rfl⟩ | ⟨rfl, p, hp, rfl⟩ := writeAddress_error herr
    · exact recordsCause_of_slotAddress (writeSlot_ne_zero i) hneg ha
    · exact ⟨i, hfetch, hmode, rfl, hp⟩
  | target hfetch hjump hb hneg => exact recordsCause_of_jumpTarget hneg ⟨_, hfetch, hjump, hb⟩

/-- R151, R154: from a state with the invariant, FAULTED is entered with the record of some error. -/
theorem FaultingStep.recordsCause {t : State} (h : FaultingStep s t) (hs : s.Inv) :
    ∃ e, RecordsCause s e ∧ t.err = e.cause.code ∧ t.einfo = e.info ∧ t.eslot = e.slot := by
  cases h with
  | cycle _ herr => exact ⟨_, herr.recordsCause, rfl, rfl, rfl⟩
  | output _ _ _ _ => exact ⟨ioFatal, ⟨rfl, rfl⟩, rfl, rfl, rfl⟩
  | completion hrun _ herr =>
    obtain ⟨-, m1, m2, m3, hfetch, hwrite⟩ := herr.deferred hs hrun
    exact ⟨_, (CycleError.write hfetch rfl hwrite).recordsCause, rfl, rfl, rfl⟩
  | input _ _ _ => exact ⟨ioFatal, ⟨rfl, rfl⟩, rfl, rfl, rfl⟩

end Records

/-- Settles O48: the code of the cause (R151) selects the clause. -/
theorem faultRecordsItsCause : Obligations.FaultRecordsItsCause := by
  intro s t hs hrun h ht
  obtain ⟨⟨cause, info, slot⟩, hrecord, herr, hinfo, hslot⟩ := (step_faultingStep h hrun ht).recordsCause hs
  rw [herr, hinfo, hslot]
  cases cause with
  | unknownOpcode => exact ⟨fun _ => hrecord, nofun, nofun, nofun, nofun⟩
  | unknownMode => exact ⟨nofun, fun _ => hrecord, nofun, nofun, nofun⟩
  | negativeAddress => exact ⟨nofun, nofun, fun _ => hrecord, nofun, nofun⟩
  | immediateWrite => exact ⟨nofun, nofun, nofun, fun _ => hrecord, nofun⟩
  | ioError => exact ⟨nofun, nofun, nofun, nofun, fun _ => hrecord⟩

end Sys2Proof.Machine
end

section
/-! The statements of spec/70_reset_and_hazards.md: the paused core and the debug read (R191), and fork (R188). What a
fork takes from the running core is its parameters, and no run changes these. -/

namespace Sys2Proof.Machine

open Sys2Proof

/-! ### The run port and the debug port (R191) -/

/-- Settles O44, by the law of a paused step. -/
theorem pausedCoreHolds : Obligations.PausedCoreHolds :=
  fun _ hrun hen => step_of_paused hrun hen

section DebugPort

variable {s : State} {addr v : Word}

theorem debugServed_iff : debugServed s = true ↔ s.run ≠ .ready ∨ s.runEnable = false := by
  simp [debugServed]

/-- A debug read gives a word where it is served and a load of the address succeeds with that word (R41). -/
theorem debugRead_eq_some :
    debugRead s addr = some v ↔ (s.run ≠ .ready ∨ s.runEnable = false) ∧ load s.mem 0 addr = .ok v := by
  rw [← debugServed_iff, load_eq_ok]
  simp [debugRead, and_assoc]

/-- Between the cycles of a running core nothing is served. -/
theorem debugRead_of_running (hrun : s.run = .ready) (hen : s.runEnable = true) : debugRead s addr = none := by
  simp [debugRead, debugServed, hrun, hen]

theorem debugRead_of_neg (hneg : addr.toInt < 0) : debugRead s addr = none := by
  simp [debugRead, hneg]

end DebugPort

/-- Settles O45: the cases without a word, then the word of the load. -/
theorem debugReadHasLoadSemantics : Obligations.DebugReadHasLoadSemantics := by
  intro s addr
  refine ⟨fun hrun hen => ?_, fun hneg => ?_, fun hserved v => ?_⟩
  · exact debugRead_of_running hrun hen
  · exact debugRead_of_neg hneg
  · exact debugRead_eq_some.trans (and_iff_right hserved)

/-! ### Fork (R188) -/

/-- The frame of a run (R5): the parameters and the run level. -/
theorem run_sameHost {n : Nat} {s u : State} (h : Host.Core.run Sys2Proof.core n s = .next u) : SameHost s u := by
  induction n generalizing s with
  | zero =>
    cases h
    exact ⟨rfl, rfl⟩
  | succ n ih =>
    obtain ⟨t, hstep, hrest⟩ := run_succ_eq_next h
    obtain ⟨hparams, hlevel⟩ := step_sameHost hstep
    obtain ⟨hparams', hlevel'⟩ := ih hrest
    exact ⟨hparams'.trans hparams, hlevel'.trans hlevel⟩

/-- Q1: what a core has done plays no part in a fork from it. -/
theorem fork_of_run {n : Nat} {s u : State} (h : Host.Core.run Sys2Proof.core n s = .next u) (image : List Word) :
    fork u image = fork s image :=
  congrArg (bootImage · image) (run_sameHost h).1

/-- A fork and a reset with the same image differ in the host's part of the state alone (R180, R188). -/
theorem fork_withHost (s : State) (image : List Word) (ins : List InAnswer) (outs : List OutAnswer) :
    ({ fork s image with inAnswers := ins, outAnswers := outs } : State) =
      { hostReset s image with runEnable := true, inAnswers := ins, outAnswers := outs } := rfl

/-- Settles O50: the forked core is that of the start of the run, and it is the reset core under the same host. -/
theorem forkIgnoresTheRunningCore : Obligations.ForkIgnoresTheRunningCore := by
  intro k s u image h
  have hfork : fork u image = fork s image := fork_of_run h image
  obtain ⟨hpc, hrb, hrun, herr, -, hio, hmem⟩ := resetLoadsImage u image
  refine ⟨hfork, ⟨hpc, hrb, hrun, herr, hio, hmem⟩, fun n ins outs => ?_⟩
  rw [hfork, fork_withHost]

end Sys2Proof.Machine
end
